-- ==== Sys2Proof/Word.lean ====
section
/-! DEFINITION. The word types of SDRT-BRC: the 32-bit host word (20_memory.md R80), the byte of one lane (R81), and the
bit vector of 00_scope.md R10, a finite sequence of bits whose index 0 is first in time. -/

namespace Sys2Proof

/-- A host word, a register or a command word. -/
abbrev Word := BitVec 32

/-- One byte lane of a host word (20_memory.md R81). -/
abbrev Byte := BitVec 8

/-- A bit vector of the spec, index 0 first in time (00_scope.md R10). -/
abbrev Bits := List Bool

end Sys2Proof
end

