-- ==== Sys2Proof/Syntax.lean ====
section
/-! DEFINITION. The sixteen commands of 30_encoding.md R114, one constructor per row of the opcode table. -/

namespace Sys2Proof

/-- A command. Its operands other than BIT come from ARG0..ARG2 (30_encoding.md R113). -/
inductive Instr where
  /-- NOP (40_bitvector.md R130). -/
  | nop
  /-- CORR_CLEAR (41_correlator.md R145). -/
  | corrClear
  /-- CORR_PUSH (R146). -/
  | corrPush
  /-- CORR_SCORE (R147). -/
  | corrScore
  /-- FRM_RESET (42_framer.md R174). -/
  | frmReset
  /-- FRM_PUSHBIT with its hard bit BIT (R170, 30_encoding.md R112). -/
  | frmPushbit (bit : Bool)
  /-- FRM_PUSHRANGE (42_framer.md R172). -/
  | frmPushrange
  /-- FRM_ACK (R175). -/
  | frmAck
  /-- BV_COPY (40_bitvector.md R131). -/
  | bvCopy
  /-- VIT_GENTAB (43_viterbi.md R195). -/
  | vitGentab
  /-- VIT_ENCODE (R197). -/
  | vitEncode
  /-- VIT_DECODE (R203). -/
  | vitDecode
  /-- BCH_ENCODE (44_bch.md R231). -/
  | bchEncode
  /-- BCH_DECODE (R234). -/
  | bchDecode
  /-- CRC_GEN (45_crc.md R256). -/
  | crcGen
  /-- CRC_VERIFY (R264). -/
  | crcVerify
deriving DecidableEq, Repr

end Sys2Proof
end

