-- ==== Sys2Proof/WellFormed.lean ====
section
/-! DEFINITION. Which command words are legal (30_encoding.md R110, R115), said without the decoder's table: the opcode is
one of the sixteen, and every reserved bit is 0. Every term of `Instr` is well formed, since its one operand is a bit. -/

namespace Sys2Proof

/-- Every command of the syntax has an encoding: BIT is 0 or 1 by its type (R112). -/
def Instr.wellFormed (_ : Instr) : Bool := true

/-- The opcodes of R114. -/
def definedOpcodes : List Nat :=
  [0x00, 0x01, 0x02, 0x03, 0x10, 0x11, 0x12, 0x13, 0x20, 0x30, 0x31, 0x32, 0x40, 0x41, 0x50, 0x51]

/-- OPC, bits 7:0 of a command word, names a command. -/
def opcodeDefined (w : Word) : Bool := definedOpcodes.contains (w.toNat % 256)

/-- The reserved bits are 0: 31:9 in format B (FRM_PUSHBIT), 31:8 in format N (R110). -/
def reservedBitsZero (w : Word) : Bool :=
  if w.toNat % 256 = 0x11 then w.toNat / 512 == 0 else w.toNat / 256 == 0

/-- A legal command word: not illegal by R115. -/
def legalWord (w : Word) : Bool := opcodeDefined w && reservedBitsZero w

end Sys2Proof
end

