-- ==== Sys2Proof/Decode.lean ====
section
/-! DEFINITION. The decoder, total on every 32-bit word (30_encoding.md R115), rejecting by name; then the encoder, from the
same table R114. There is no instruction byte order: a command is one whole word (20_memory.md R81, 30_encoding.md R116). -/

namespace Sys2Proof

/-- Why a command word is illegal (R115): both complete with error ILLEGAL. -/
inductive IllegalWord where
  /-- OPC is not in the table of R114. -/
  | undefinedOpcode (opc : BitVec 8)
  /-- OPC is in the table and a reserved bit is 1. -/
  | reservedBitSet (w : Word)
deriving DecidableEq, Repr

/-- One row of the table of R114; `command` takes BIT, which format N ignores. -/
structure OpcodeRow where
  mask : Word
  pattern : Word
  command : Bool → Instr

/-- A row of format N: mask all ones (R114). -/
def rowN (opc : Word) (i : Instr) : OpcodeRow := ⟨0xFFFFFFFF#32, opc, fun _ => i⟩

/-- The table of R114, in its order. -/
def opcodeTable : List OpcodeRow :=
  [rowN 0x00 .nop, rowN 0x01 .corrClear, rowN 0x02 .corrPush, rowN 0x03 .corrScore,
   rowN 0x10 .frmReset, ⟨0xFFFFFEFF#32, 0x11#32, .frmPushbit⟩, rowN 0x12 .frmPushrange, rowN 0x13 .frmAck,
   rowN 0x20 .bvCopy, rowN 0x30 .vitGentab, rowN 0x31 .vitEncode, rowN 0x32 .vitDecode,
   rowN 0x40 .bchEncode, rowN 0x41 .bchDecode, rowN 0x50 .crcGen, rowN 0x51 .crcVerify]

/-- OPC, bits 7:0 of a command word (R110). -/
def opcOf (w : Word) : BitVec 8 := w.extractLsb' 0 8

/-- BIT, bit 8 of a command word (R110). -/
def bitOf (w : Word) : Bool := w.getLsbD 8

/-- Decoding of a command word (R115). -/
def decode (w : Word) : Except IllegalWord Instr :=
  match opcodeTable.find? (fun r => opcOf r.pattern == opcOf w) with
  | none => .error (.undefinedOpcode (opcOf w))
  | some r => if w &&& r.mask = r.pattern then .ok (r.command (bitOf w)) else .error (.reservedBitSet w)

/-- OPC of each command (R114). -/
def Instr.opcode : Instr → BitVec 8
  | .nop => 0x00
  | .corrClear => 0x01
  | .corrPush => 0x02
  | .corrScore => 0x03
  | .frmReset => 0x10
  | .frmPushbit _ => 0x11
  | .frmPushrange => 0x12
  | .frmAck => 0x13
  | .bvCopy => 0x20
  | .vitGentab => 0x30
  | .vitEncode => 0x31
  | .vitDecode => 0x32
  | .bchEncode => 0x40
  | .bchDecode => 0x41
  | .crcGen => 0x50
  | .crcVerify => 0x51

/-- BIT of each command, 0 in format N, where bit 8 is reserved (R110). -/
def Instr.bit : Instr → Bool
  | .frmPushbit b => b
  | .nop => false
  | .corrClear => false
  | .corrPush => false
  | .corrScore => false
  | .frmReset => false
  | .frmPushrange => false
  | .frmAck => false
  | .bvCopy => false
  | .vitGentab => false
  | .vitEncode => false
  | .vitDecode => false
  | .bchEncode => false
  | .bchDecode => false
  | .crcGen => false
  | .crcVerify => false

/-- The command word: `(BIT << 8) | OPC` (R111, R112). -/
def encode (i : Instr) : Word :=
  (if i.bit then 0x100#32 else 0#32) ||| i.opcode.setWidth 32

/-- The command the decoder reads from a word of at most `nbits` bits, numbered as the opcode table numbers them. -/
def decodeTableWord (nbits w : Nat) : Option Instr :=
  if w % 2 ^ nbits < 2 ^ 32 then
    match decode (BitVec.ofNat 32 (w % 2 ^ nbits)) with
    | .ok i => some i
    | .error _ => none
  else none

end Sys2Proof
end

