-- ==== Sys2Proof/Config.lean ====
section
/-! DEFINITION. What the block fixes (00_scope.md R9) and what the spec leaves open (93_implementation_defined.md U1, U3). -/

namespace Sys2Proof.Config

/-- ID register value, ASCII "BRC1" (10_state.md R31). -/
def idValue : Word := 0x42524331#32
/-- `BM_BITS` (00_scope.md R9). -/
def bmBits : Nat := 8192
/-- Host offset of BM word 0 (20_memory.md R83). -/
def bmBase : Nat := 0x400
/-- `CORR_NMAX` (R9). -/
def corrNMax : Nat := 64
/-- `FRM_PAT_MAX` (R9). -/
def frmPatMax : Nat := 64
/-- `FRM_CAP_BITS` (R9). -/
def frmCapBits : Nat := 4096
/-- `VIT_M_MAX` (R9). -/
def vitMMax : Nat := 6
/-- `VIT_MAX_STEPS` (R9). -/
def vitMaxSteps : Nat := 1024
/-- `BCH_N` (R9). -/
def bchN : Nat := 63
/-- `CRC_W_MAX` (R9). -/
def crcWMax : Nat := 32
/-- `CRC_MAX_BITS` (R9). -/
def crcMaxBits : Nat := 1024
/-- `CORR_LANES` (R9): the accumulation lane width of the correlator datapath. -/
def corrLanes : Nat := 1

/-- FREE VALUE (log 3): what the k-th unspecified read during BUSY returns (70_reset_and_hazards.md R337, U1). -/
opaque busyRead : Nat → Word

/-- FREE VALUE (log 2): the cycles the k-th accepted command takes beyond the one every command takes, so that
`CMD_LATENCY = 1 + extraLatency k` (70_reset_and_hazards.md R336, U3). -/
opaque extraLatency : Nat → Nat

end Sys2Proof.Config
end

