-- ==== Sys2Proof/Machine/State.lean ====
section
/-! DEFINITION. The state of SDRT-BRC (10_state.md R30 to R63) as plain data, the state after reset (70_reset_and_hazards.md
R330), and the reasons a step can stop. Registers are held field by field at the field's own width, so a reserved (RAZ/WI)
field has nowhere to be stored (R61, log 14). STATUS.BUSY, CAPTURING and IRQ are views: of the command in progress, of
FSTATE, and of CTRL with STATUS (log 14). -/

namespace Sys2Proof.Machine

/-- What the host, or the platform on its behalf, does in one cycle (00_scope.md R7; log 1). -/
inductive HostOp where
  /-- `MemWrite(off, 4, v)` (20_memory.md R80). -/
  | write (off : BitVec 12) (v : Word)
  /-- `MemRead(off, 4)` (R80). -/
  | read (off : BitVec 12)
  /-- `wait`: read STATUS until BUSY reads 0 (30_encoding.md R117; log 15). -/
  | wait
  /-- A cycle with no transaction. -/
  | idle
  /-- The platform's reset input (70_reset_and_hazards.md R330). -/
  | hardReset
  /-- A transaction narrower than a word, outside the spec (20_memory.md R80, U5; log 11). -/
  | narrow (off : BitVec 12)
deriving DecidableEq, Repr

/-- CTRL's enables (10_state.md R32). SRST is an action and reads 0. -/
structure Ctrl where
  ieDone : Bool
  ieErr : Bool
  ieFrame : Bool
  ieSync : Bool
deriving DecidableEq, Repr

/-- The stored fields of STATUS (R33). -/
structure Status where
  done : Bool
  err : Bool
  busyErr : Bool
  frameReady : Bool
  sync : Bool
  errCode : BitVec 4
  lastOp : BitVec 8
deriving DecidableEq, Repr

/-- The command in progress: the latched word (R34) and the cycles left before the one that completes it (R336). -/
structure InFlight where
  word : Word
  left : Nat
deriving DecidableEq, Repr

/-- ARG0..ARG2 (R35). -/
structure Args where
  arg0 : Word
  arg1 : Word
  arg2 : Word
deriving DecidableEq, Repr

/-- RES0..RES3 (R35). -/
structure Results where
  res0 : Word
  res1 : Word
  res2 : Word
  res3 : Word
deriving DecidableEq, Repr

/-- The correlator's registers (R38 to R43). -/
structure Corr where
  len : BitVec 7
  thresh : Word
  score : Word
  wp : BitVec 6
  ref : Vector Word 64
  symbuf : Vector Word 64
deriving DecidableEq, Repr

/-- FSTATE (R50). -/
inductive FrmState where
  | searching
  | capturing
deriving DecidableEq, Repr

/-- The framer's registers and hidden state (R37, R44 to R50). Bit i of `cap` is CAP[i], bit i of `hist` is HIST[i]. -/
structure Framer where
  patLo : Word
  patHi : Word
  patLen : BitVec 7
  maxErr : BitVec 6
  preempt : Bool
  incSync : Bool
  patId : BitVec 8
  flen : BitVec 13
  dst : Word
  frameLen : BitVec 13
  frameTs : Word
  framePatId : BitVec 8
  hist : BitVec 64
  hfill : BitVec 7
  bitCount : Word
  fstate : FrmState
  cap : BitVec 4096
  cc : BitVec 13
  tsPend : Word
deriving DecidableEq, Repr

/-- One entry of VITTAB: NEXT(s,u) and OUT(s,u) (R53). -/
structure VitEntry where
  next : BitVec 6
  out : BitVec 4
deriving DecidableEq, Repr

/-- The Viterbi registers and the trellis table (R51 to R53). -/
structure Vit where
  k : BitVec 3
  n : BitVec 3
  m : BitVec 3
  g0 : BitVec 7
  g1 : BitVec 7
  tab : Vector VitEntry 512
deriving DecidableEq, Repr

/-- The BCH registers (R55, R56). -/
structure Bch where
  t : BitVec 4
  genLo : Word
  genHi : Word
deriving DecidableEq, Repr

/-- The CRC registers (R57, R58). -/
structure Crc where
  w : BitVec 6
  trial : BitVec 2
  poly : Word
  init : Word
  xorOut : Word
deriving DecidableEq, Repr

/-- The bit memory BM as byte cells keyed by their offset in the host window (20_memory.md R81, R83; log 5): offsets
strictly rising, no zero byte listed, an unlisted byte reads 0 (70_reset_and_hazards.md R330). -/
abbrev Memory := List Host.Cell

/-- The machine: one block, its host's transactions to come, and what the host last read. -/
structure State where
  ctrl : Ctrl
  status : Status
  inFlight : Option InFlight
  args : Args
  res : Results
  ccnt : Word
  corr : Corr
  frm : Framer
  vit : Vit
  bch : Bch
  crc : Crc
  bm : Memory
  /-- The model's own: the host's transactions to come, in program order (20_memory.md R91; log 1). -/
  host : List HostOp
  /-- The model's own: the word the host's last read returned (log 9). -/
  rdata : Option Word
  /-- The model's own: how many free values have been drawn (log 9). -/
  draws : Nat
deriving DecidableEq, Repr

/-- The machine right after reset (70_reset_and_hazards.md R330): idle, no transaction placed. -/
def State.reset : State where
  ctrl := ⟨false, false, false, false⟩
  status := ⟨false, false, false, false, false, 0#4, 0#8⟩
  inFlight := none
  args := ⟨0#32, 0#32, 0#32⟩
  res := ⟨0#32, 0#32, 0#32, 0#32⟩
  ccnt := 0#32
  corr := ⟨0#7, 0x7F800000#32, 0#32, 0#6, Vector.replicate 64 0#32, Vector.replicate 64 0#32⟩
  frm :=
    { patLo := 0#32, patHi := 0#32, patLen := 0#7, maxErr := 0#6, preempt := false, incSync := false, patId := 0#8
      flen := 0#13, dst := 0#32, frameLen := 0#13, frameTs := 0#32, framePatId := 0#8, hist := 0#64, hfill := 0#7
      bitCount := 0#32, fstate := .searching, cap := 0#4096, cc := 0#13, tsPend := 0#32 }
  vit := ⟨0#3, 0#3, 0#3, 0#7, 0#7, Vector.replicate 512 ⟨0#6, 0#4⟩⟩
  bch := ⟨11#4, 0x0BDD3B2B#32, 0x0000CD93#32⟩
  crc := ⟨0#6, 0#2, 0#32, 0#32, 0#32⟩
  bm := []
  host := []
  rdata := none
  draws := 0

/-- Why the machine would stop by itself: never. A command error is a next state (60_exceptions.md R301), every command
terminates (93_implementation_defined.md U16), and no host access is refused with a bus error (60_exceptions.md R307). -/
inductive Fault
deriving DecidableEq, Repr

/-- Why a step has no meaning. -/
inductive Refusal where
  /-- `exec` raises it for an instruction that has no meaning yet. Safe. No instruction is in this case. -/
  | notModelled (mnemonic : String)
  /-- The host's part of a step raises it for a transaction narrower than a word, which is outside the spec and which
  a model refuses (20_memory.md R80, U5; log 11). Safe. -/
  | narrowAccess (off : BitVec 12)
deriving DecidableEq, Repr

/-- The outcome of a step of this machine. -/
abbrev StepResult := Host.Outcome State Fault Refusal

end Sys2Proof.Machine
end

