-- ==== Sys2Proof/Machine/Ops.lean ====
section
/-! DEFINITION. The named operations over memory and registers: the bytes of BM in canonical form, its bits and words
(20_memory.md R83 to R85), the indexed register files, the named updates of State, the two completions of a command
(60_exceptions.md R300, R301), and reset (70_reset_and_hazards.md R330, R331). -/

namespace Sys2Proof.Machine

/-! ## Memory: byte cells in canonical form -/

/-- What a byte that no cell lists reads as (R330; log 5). -/
abbrev Memory.unlisted : Byte := 0#8

/-- The byte at offset `a`. -/
def Memory.read : Memory → Nat → Byte
  | [], _ => Memory.unlisted
  | (k, v) :: m, a => if k = a then v else Memory.read m a

/-- The memory with no cell at `a`. -/
def Memory.erase : Memory → Nat → Memory
  | [], _ => []
  | (k, v) :: m, a => if k = a then Memory.erase m a else (k, v) :: Memory.erase m a

/-- The memory with the cell `(a, b)` placed before the first larger offset. -/
def Memory.insert : Memory → Nat → Byte → Memory
  | [], a, b => [(a, b)]
  | (k, v) :: m, a, b => if a < k then (a, b) :: (k, v) :: m else (k, v) :: Memory.insert m a b

/-- Writing the byte an unlisted offset reads as removes the cell, so equal memories are equal lists. -/
def Memory.write (m : Memory) (a : Nat) (b : Byte) : Memory :=
  if b = Memory.unlisted then Memory.erase m a else Memory.insert (Memory.erase m a) a b

/-- Every offset of the memory is larger than `a`. -/
def Memory.above (m : Memory) (a : Nat) : Bool := m.all fun c => decide (a < c.1)

/-- The canonical form: offsets strictly rising, no cell equal to what an unlisted offset reads as. -/
def Memory.wf : Memory → Bool
  | [] => true
  | (k, v) :: m => (v != Memory.unlisted) && Memory.above m k && Memory.wf m

/-- Every cell lies in the BM window, offsets `0x400`..`0x7FF` (R82). -/
def Memory.inWindow (m : Memory) : Bool :=
  m.all fun c => decide (Config.bmBase ≤ c.1) && decide (c.1 < Config.bmBase + Config.bmBits / 8)

/-! ## Bits and words of BM -/

/-- A value with bit `i` replaced by `b`. -/
def putBit {w : Nat} (v : BitVec w) (i : Nat) (b : Bool) : BitVec w :=
  if b then v ||| (1#w <<< i) else v &&& ~~~(1#w <<< i)

/-- The byte that holds bit address `a`: word `a div 32`, word bit `31 - (a mod 32)` (R83), lane `j` carrying bits
`[8j+7:8j]` (R81). -/
def bitByte (a : Nat) : Nat := Config.bmBase + 4 * (a / 32) + (31 - a % 32) / 8

/-- The bit of that byte. -/
def bitLane (a : Nat) : Nat := (31 - a % 32) % 8

/-- `BM[a]` (R83). -/
def bmBit (m : Memory) (a : Nat) : Bool := (Memory.read m (bitByte a)).getLsbD (bitLane a)

/-- `BM[a] <- b`. -/
def bmPutBit (m : Memory) (a : Nat) (b : Bool) : Memory :=
  Memory.write m (bitByte a) (putBit (Memory.read m (bitByte a)) (bitLane a) b)

/-- `BMRead(a, n)` (R84). -/
def bmRead (m : Memory) (a n : Nat) : Bits := (List.range n).map fun i => bmBit m (a + i)

/-- `BMWrite(a, s)` (R85). -/
def bmWrite (m : Memory) (a : Nat) : Bits → Memory
  | [] => m
  | b :: bs => bmWrite (bmPutBit m a b) (a + 1) bs

/-- A host read of BM word `w` (R83): lane `j` is the byte at offset `j` of the word. -/
def bmWord (m : Memory) (w : Nat) : Word :=
  let o := Config.bmBase + 4 * w
  Memory.read m (o + 3) ++ Memory.read m (o + 2) ++ Memory.read m (o + 1) ++ Memory.read m o

/-- A host write of BM word `w` replaces all 32 bits (R83). -/
def bmPutWord (m : Memory) (w : Nat) (v : Word) : Memory :=
  let o := Config.bmBase + 4 * w
  let m := Memory.write m o (v.extractLsb' 0 8)
  let m := Memory.write m (o + 1) (v.extractLsb' 8 8)
  let m := Memory.write m (o + 2) (v.extractLsb' 16 8)
  Memory.write m (o + 3) (v.extractLsb' 24 8)

/-! ## Indexed register files -/

/-- Entry `i` of a register file; `d` past its end, which no rule reaches. -/
def slot {α : Type} {n : Nat} (v : Vector α n) (i : Nat) (d : α) : α := if h : i < n then v[i] else d

/-- A register file with entry `i` replaced. -/
def putSlot {α : Type} {n : Nat} (v : Vector α n) (i : Nat) (x : α) : Vector α n :=
  if h : i < n then v.set i x else v

/-! ## Named updates of State -/

def State.withBm (s : State) (m : Memory) : State := { s with bm := m }
def State.withCorr (s : State) (c : Corr) : State := { s with corr := c }
def State.withFrm (s : State) (f : Framer) : State := { s with frm := f }
def State.withVit (s : State) (v : Vit) : State := { s with vit := v }
def State.withBch (s : State) (b : Bch) : State := { s with bch := b }
def State.withCrc (s : State) (c : Crc) : State := { s with crc := c }
def State.withCtrl (s : State) (c : Ctrl) : State := { s with ctrl := c }
def State.withStatus (s : State) (t : Status) : State := { s with status := t }
def State.withArgs (s : State) (a : Args) : State := { s with args := a }
def State.withCcnt (s : State) (c : Word) : State := { s with ccnt := c }
def State.withInFlight (s : State) (c : Option InFlight) : State := { s with inFlight := c }
def State.withHost (s : State) (h : List HostOp) : State := { s with host := h }
def State.withRdata (s : State) (d : Word) : State := { s with rdata := some d }
def State.withDraws (s : State) (k : Nat) : State := { s with draws := k }

/-- STATUS.FRAME_READY <- b (42_framer.md R168, R175). -/
def State.withFrameReady (s : State) (b : Bool) : State := s.withStatus { s.status with frameReady := b }

/-- STATUS.SYNC <- 1 (41_correlator.md R146). -/
def State.raiseSync (s : State) : State := s.withStatus { s.status with sync := true }

/-- STATUS.BUSYERR <- 1 (70_reset_and_hazards.md R337). -/
def State.raiseBusyErr (s : State) : State := s.withStatus { s.status with busyErr := true }

/-- `CCNT <- min(CCNT + n, 0xFFFFFFFF)` (10_state.md R36). -/
def State.addCorrected (s : State) (n : Nat) : State :=
  s.withCcnt (BitVec.ofNat 32 (min (s.ccnt.toNat + n) 0xFFFFFFFF))

/-! ## Completion of a command -/

/-- The error codes of 60_exceptions.md R302. -/
inductive CmdError where
  | illegal
  | config
  | pending
  | range
  | length
deriving DecidableEq, Repr

/-- STATUS.ERRCODE of each error (R302). -/
def CmdError.code : CmdError → BitVec 4
  | .illegal => 1#4
  | .config => 2#4
  | .pending => 3#4
  | .range => 4#4
  | .length => 5#4

/-- `complete(r0, r1, r2, r3)` (R300): applied to the state that holds the command's own changes. -/
def State.complete (opc : BitVec 8) (r : Results) (s : State) : State :=
  { s with
    res := r
    status := { s.status with errCode := 0#4, lastOp := opc, done := true }
    inFlight := none }

/-- `raise CmdError(code)` (R301), the block's one way to turn a command away: applied to the state the command was
issued in, so no change of the command takes effect. There is no return from it (R306). -/
def State.raiseError (opc : BitVec 8) (e : CmdError) (s : State) : State :=
  { s with
    status := { s.status with errCode := e.code, lastOp := opc, err := true, done := true }
    inFlight := none }

/-- The error of the first check that fails, in the order the rule lists its checks (R303). -/
def firstFailure : List (Bool × CmdError) → Option CmdError
  | [] => none
  | (ok, e) :: cs => if ok then firstFailure cs else some e

/-- One command: its checks first, all of them before any change (R301), then `changed`, the state with the command's own
changes, completed with `r`. -/
def runCommand (i : Instr) (checks : List (Bool × CmdError)) (changed : State) (r : Results) (s : State) : StepResult :=
  match firstFailure checks with
  | some e => .next (s.raiseError i.opcode e)
  | none => .next (changed.complete i.opcode r)

/-- An illegal command word performs nothing and completes with error ILLEGAL (30_encoding.md R115). -/
def State.raiseIllegal (w : Word) (s : State) : State := s.raiseError (opcOf w) .illegal

/-! ## Reset -/

/-- The reset of the whole block (70_reset_and_hazards.md R330, R331): a command in progress is abandoned with none of its
effects. The host is another agent: its transactions to come and what it read are not the block's state (log 7). -/
def State.resetBlock (s : State) : State :=
  { State.reset with host := s.host, rdata := s.rdata, draws := s.draws }

/-! ## Sequencing of outcomes -/

/-- Go on with `f` from a next state; a stop stays a stop. -/
def andThen (o : StepResult) (f : State → StepResult) : StepResult :=
  match o with
  | .next s => f s
  | .fault r => .fault r
  | .refused r => .refused r

end Sys2Proof.Machine
end

