-- ==== Sys2Proof/Machine/Operands.lean ====
section
/-! DEFINITION. Operand forms: ARG0..ARG2 as unsigned integers (30_encoding.md R113), bit ranges and their validity
(20_memory.md R86), bit vectors read as numbers and numbers written as bit vectors (00_scope.md R10). -/

namespace Sys2Proof.Machine

/-- ARG0 as an unsigned integer (30_encoding.md R113). -/
def State.arg0 (s : State) : Nat := s.args.arg0.toNat
/-- ARG1 as an unsigned integer (R113). -/
def State.arg1 (s : State) : Nat := s.args.arg1.toNat
/-- ARG2 as an unsigned integer (R113). -/
def State.arg2 (s : State) : Nat := s.args.arg2.toNat

/-- Validity of the range `(a, n)` (20_memory.md R86), in unbounded integers. -/
def validRange (a n : Nat) : Bool := decide (a ≤ Config.bmBits) && decide (n ≤ Config.bmBits - a)

/-- The ranges `(a, n)` and `(f, w)` do not overlap (45_crc.md R254 (c)). -/
def disjointRanges (a n f w : Nat) : Bool := decide (a + n ≤ f) || decide (f + w ≤ a)

/-- `num(b)`: index 0 is the most significant bit (00_scope.md R10). -/
def num (b : Bits) : Nat := b.foldl (fun acc x => 2 * acc + x.toNat) 0

/-- `bits_n(v)`: element i is `v[n-1-i]` (43_viterbi.md R196). -/
def bitsOf (n v : Nat) : Bits := (List.range n).map fun i => v.testBit (n - 1 - i)

/-- A bit vector with element `p` flipped. -/
def flipAt (z : Bits) (p : Nat) : Bits := z.modify p (!·)

/-- The number of 1 bits of the low `n` bits of `v`. -/
def onesBelow (n v : Nat) : Nat := (List.range n).countP fun i => v.testBit i

/-- `hd(a, b)` over the low `n` bits (00_scope.md R11). -/
def hammingBelow (n a b : Nat) : Nat := onesBelow n (a ^^^ b)

/-- A result register's value, from an integer that fits it. -/
def word (n : Nat) : Word := BitVec.ofNat 32 n

/-- NONE of 45_crc.md R258. -/
def noPosition : Word := 0xFFFFFFFF#32

end Sys2Proof.Machine
end

