-- ==== Sys2Proof/Machine/Flags.lean ====
section
/-! DEFINITION. STATUS as the host reads it and as it clears it (10_state.md R33), CTRL as the host reads it (R32), the
interrupt level (60_exceptions.md R310), the framer's event mask (42_framer.md R169) and the decode outcomes
(60_exceptions.md R304). -/

namespace Sys2Proof.Machine

/-- STATUS.BUSY (R33): a command is in progress. -/
def State.busy (s : State) : Bool := s.inFlight.isSome

/-- The interrupt output, and STATUS.IRQ (60_exceptions.md R310). -/
def State.irq (s : State) : Bool :=
  (s.ctrl.ieDone && s.status.done)
  || (s.ctrl.ieErr && (s.status.err || s.status.busyErr))
  || (s.ctrl.ieFrame && s.status.frameReady)
  || (s.ctrl.ieSync && s.status.sync)

/-- A bit at position `i` of a word. -/
def bitAt (b : Bool) (i : Nat) : Word := (BitVec.ofBool b).setWidth 32 <<< i

/-- STATUS as a host read returns it (R33). -/
def State.statusWord (s : State) : Word :=
  bitAt s.busy 0 ||| bitAt s.status.done 1 ||| bitAt s.status.err 2 ||| bitAt s.status.busyErr 3
  ||| bitAt s.status.frameReady 4 ||| bitAt s.status.sync 5 ||| bitAt (s.frm.fstate == .capturing) 6
  ||| bitAt s.irq 7 ||| (s.status.errCode.setWidth 32 <<< 8) ||| (s.status.lastOp.setWidth 32 <<< 16)

/-- A host write to STATUS: the W1C bits whose written value is 1 become 0, nothing else changes (R33). -/
def State.writeStatus (s : State) (v : Word) : State :=
  s.withStatus
    { s.status with
      done := s.status.done && !v.getLsbD 1
      err := s.status.err && !v.getLsbD 2
      busyErr := s.status.busyErr && !v.getLsbD 3
      sync := s.status.sync && !v.getLsbD 5 }

/-- CTRL as a host read returns it (R32): SRST reads 0. -/
def State.ctrlWord (s : State) : Word :=
  bitAt s.ctrl.ieDone 1 ||| bitAt s.ctrl.ieErr 2 ||| bitAt s.ctrl.ieFrame 3 ||| bitAt s.ctrl.ieSync 4

/-- A host write to CTRL: SRST resets the block whatever the other bits are (70_reset_and_hazards.md R331), else the
enables are stored (R32). -/
def State.writeCtrl (s : State) (v : Word) : State :=
  if v.getLsbD 0 then s.resetBlock
  else s.withCtrl ⟨v.getLsbD 1, v.getLsbD 2, v.getLsbD 3, v.getLsbD 4⟩

/-- The event set of a framer step (42_framer.md R169). -/
structure Events where
  sync : Bool
  frame : Bool
  preempted : Bool
deriving DecidableEq, Repr

/-- No event. -/
def Events.none : Events := ⟨false, false, false⟩

/-- The union of two event sets. -/
def Events.union (a b : Events) : Events := ⟨a.sync || b.sync, a.frame || b.frame, a.preempted || b.preempted⟩

/-- The 3-bit mask of an event set (R169). -/
def Events.mask (e : Events) : Nat := e.sync.toNat + 2 * e.frame.toNat + 4 * e.preempted.toNat

/-- The outcome of BCH_DECODE and CRC_VERIFY (60_exceptions.md R304). -/
inductive DecodeOutcome where
  | passed
  | corrected
  | failed
deriving DecidableEq, Repr

/-- RES0 of each outcome (R304). -/
def DecodeOutcome.code : DecodeOutcome → Word
  | .passed => 0#32
  | .corrected => 1#32
  | .failed => 2#32

end Sys2Proof.Machine
end

