-- ==== Sys2Proof/Machine/Float.lean ====
section
/-! DEFINITION. IEEE 754 binary32 multiply, add and ordered greater-than as 41_correlator.md R141 and R143 fix them: exact
integer arithmetic, then one rounding to nearest, ties to even. A finite value is an integer multiple of 2^-149, a product
of two an integer multiple of 2^-298 (log 20). -/

namespace Sys2Proof.Machine

/-- The canonical quiet NaN (R141). -/
def f32NaN : Word := 0x7FC00000#32

/-- The magnitude bits of infinity. -/
def f32InfMag : Nat := 0x7F800000

/-- The sign bit. -/
def f32Sign (x : Word) : Bool := x.getLsbD 31
/-- The exponent field. -/
def f32Exp (x : Word) : Nat := x.toNat / 2 ^ 23 % 2 ^ 8
/-- The fraction field. -/
def f32Frac (x : Word) : Nat := x.toNat % 2 ^ 23
/-- Exponent and fraction read as one number: it orders magnitudes, infinity included. -/
def f32Mag (x : Word) : Nat := x.toNat % 2 ^ 31

/-- Any NaN, quiet or signalling. -/
def f32IsNaN (x : Word) : Bool := decide (f32InfMag < f32Mag x)
/-- An infinity of either sign. -/
def f32IsInf (x : Word) : Bool := f32Mag x == f32InfMag
/-- A zero of either sign. -/
def f32IsZero (x : Word) : Bool := f32Mag x == 0

/-- The magnitude of a finite value in units of 2^-149; subnormals are used as they are (R141). -/
def f32Units (x : Word) : Nat :=
  if f32Exp x = 0 then f32Frac x else (f32Frac x + 2 ^ 23) * 2 ^ (f32Exp x - 1)

/-- A word from a sign and magnitude bits. -/
def f32Pack (sign : Bool) (mag : Nat) : Word := BitVec.ofNat 32 (mag + sign.toNat * 2 ^ 31)

/-- The quotient of `n` by `2^k` rounded to nearest, ties to even. -/
def divRoundEven (n k : Nat) : Nat :=
  let q := n / 2 ^ k
  let r := 2 * (n % 2 ^ k)
  if r < 2 ^ k then q else if 2 ^ k < r then q + 1 else q + q % 2

/-- How many low bits of `n` (in units of 2^-298) binary32 cannot hold: 149 for the subnormal range, more when `n` has
more than 24 significant bits above them. -/
def f32Drop (n : Nat) : Nat := max 149 (n.log2 + 1 - 24)

/-- The magnitude bits of the binary32 value nearest to `n` units of 2^-298; too large a value is infinity (R141). -/
def f32Round (n : Nat) : Nat :=
  min (divRoundEven n (f32Drop n) + (f32Drop n - 149) * 2 ^ 23) f32InfMag

/-- `fmul32` (R141). -/
def fmul32 (a b : Word) : Word :=
  let sign := f32Sign a ^^ f32Sign b
  if f32IsNaN a || f32IsNaN b then f32NaN
  else if (f32IsInf a && f32IsZero b) || (f32IsZero a && f32IsInf b) then f32NaN
  else if f32IsInf a || f32IsInf b then f32Pack sign f32InfMag
  else f32Pack sign (f32Round (f32Units a * f32Units b))

/-- The signed units of a finite value. -/
def f32Signed (x : Word) : Int := if f32Sign x then -(f32Units x : Int) else (f32Units x : Int)

/-- `fadd32` (R141). An exact zero sum is +0, but for the sum of two negative zeros. -/
def fadd32 (a b : Word) : Word :=
  if f32IsNaN a || f32IsNaN b then f32NaN
  else if f32IsInf a && f32IsInf b then (if f32Sign a = f32Sign b then a else f32NaN)
  else if f32IsInf a then a
  else if f32IsInf b then b
  else
    let sum := f32Signed a + f32Signed b
    if sum = 0 then f32Pack (f32Sign a && f32Sign b) 0
    else f32Pack (decide (sum < 0)) (f32Round (sum.natAbs * 2 ^ 149))

/-- The place of a value that is no NaN in the order of R143; both zeros have the same place. -/
def f32Order (x : Word) : Int := if f32Sign x then -(f32Mag x : Int) else (f32Mag x : Int)

/-- The ordered greater-than of R143: false if either value is a NaN. -/
def fgt32 (a b : Word) : Bool :=
  !f32IsNaN a && !f32IsNaN b && decide (f32Order b < f32Order a)

end Sys2Proof.Machine
end

