-- ==== Sys2Proof/Machine/Correlator.lean ====
section
/-! DEFINITION. The soft-symbol correlator: CORR_CLEAR, CORR_PUSH, CORR_SCORE (41_correlator.md R140 to R149). -/

namespace Sys2Proof.Machine

/-- N is legal: 1 to 64 (R144). -/
def Corr.lenOk (c : Corr) : Bool := decide (1 ≤ c.len.toNat) && decide (c.len.toNat ≤ Config.corrNMax)

/-- `w[i]`: the i-th oldest symbol of the window (R140). -/
def Corr.window (c : Corr) (i : Nat) : Word := slot c.symbuf ((c.wp.toNat + i) % c.len.toNat) 0#32

/-- The product of window position `i` with its reference value. -/
def Corr.product (c : Corr) (i : Nat) : Word := fmul32 (slot c.ref i 0#32) (c.window i)

/-- `score()` (R142): oldest first, from +0.0. -/
def Corr.dot (c : Corr) : Word :=
  (List.range c.len.toNat).foldl (fun acc i => fadd32 acc (c.product i)) 0#32

/-- One lane of the lane-split score (R149): positions `b·Lw + l`, past the window zero-padded. -/
def Corr.lane (c : Corr) (lanes l : Nat) : Word :=
  (List.range ((c.len.toNat + lanes - 1) / lanes)).foldl
    (fun acc b =>
      fadd32 acc (if b * lanes + l < c.len.toNat then c.product (b * lanes + l) else 0#32)) 0#32

/-- The lane-split score of R149, for a model that takes the lane width as a parameter. -/
def Corr.laneDot (c : Corr) (lanes : Nat) : Word :=
  (List.range (lanes - 1)).foldl (fun acc l => fadd32 acc (c.lane lanes (l + 1))) (c.lane lanes 0)

/-- `det` (R143). -/
def Corr.detects (c : Corr) (score : Word) : Bool := fgt32 score c.thresh

/-- The correlator's state change of CORR_CLEAR (R145), also of a host write to CORR_LEN (10_state.md R62). -/
def Corr.clear (c : Corr) : Corr :=
  { c with symbuf := Vector.replicate 64 0#32, wp := 0#6, score := 0#32 }

/-- The correlator with one symbol pushed, its score not yet renewed (R146). -/
def Corr.push (c : Corr) (x : Word) : Corr :=
  { c with
    symbuf := putSlot c.symbuf c.wp.toNat x
    wp := BitVec.ofNat 6 ((c.wp.toNat + 1) % c.len.toNat) }

/-- The correlator with its score renewed (R146, R147). -/
def Corr.rescored (c : Corr) : Corr := { c with score := c.dot }

/-- The results of CORR_PUSH and CORR_SCORE from the rescored correlator (R146, R147). -/
def Corr.results (c : Corr) : Results :=
  ⟨c.score, bitAt (c.detects c.score) 0, c.wp.setWidth 32, 0#32⟩

/-- CORR_CLEAR (R145). -/
def execCorrClear (s : State) : StepResult :=
  runCommand .corrClear [] (s.withCorr s.corr.clear) ⟨0#32, 0#32, 0#32, 0#32⟩ s

/-- CORR_PUSH (R146). -/
def execCorrPush (s : State) : StepResult :=
  let c := (s.corr.push s.args.arg0).rescored
  runCommand .corrPush [(s.corr.lenOk, .config)]
    (if c.detects c.score then (s.withCorr c).raiseSync else s.withCorr c) c.results s

/-- CORR_SCORE (R147). -/
def execCorrScore (s : State) : StepResult :=
  let c := s.corr.rescored
  runCommand .corrScore [(s.corr.lenOk, .config)] (s.withCorr c) c.results s

end Sys2Proof.Machine
end

