-- ==== Sys2Proof/Machine/Framer.lean ====
section
/-! DEFINITION. The hard-bit frame synchronizer: FRM_RESET, FRM_PUSHBIT, FRM_PUSHRANGE, FRM_ACK (42_framer.md R160 to
R175). -/

namespace Sys2Proof.Machine

/-- `PAT = FRM_PAT_HI ++ FRM_PAT_LO` (10_state.md R44). -/
def Framer.pat (f : Framer) : BitVec 64 := f.patHi ++ f.patLo

/-- `TOT` (R161). -/
def Framer.total (f : Framer) : Nat := f.flen.toNat + (if f.incSync then f.patLen.toNat else 0)

/-- The configuration check of R162. -/
def Framer.configOk (f : Framer) : Bool :=
  decide (1 ≤ f.patLen.toNat) && decide (f.patLen.toNat ≤ Config.frmPatMax) && decide (1 ≤ f.flen.toNat)
  && decide (f.total ≤ Config.frmCapBits) && validRange f.dst.toNat f.total

/-- The framer's counters and history after one more bit (R163, first three lines). -/
def Framer.shiftIn (f : Framer) (b : Bool) : Framer :=
  { f with
    bitCount := f.bitCount + 1#32
    hist := (f.hist <<< 1) ||| (BitVec.ofBool b).setWidth 64
    hfill := BitVec.ofNat 7 (min (f.hfill.toNat + 1) 64) }

/-- `d`, the Hamming distance of the last L received bits from the pattern (R164). -/
def Framer.distance (f : Framer) : Nat := hammingBelow f.patLen.toNat f.hist.toNat f.pat.toNat

/-- `match`: `d ≤ MAXERR`, and L bits received (R164). -/
def Framer.isMatch (f : Framer) : Bool :=
  decide (f.patLen.toNat ≤ f.hfill.toNat) && decide (f.distance ≤ f.maxErr.toNat)

/-- CAP with the received window in its first L bits, oldest first (R165); the bits above stay (log 6). -/
def Framer.capWindow (f : Framer) : BitVec 4096 :=
  (List.range f.patLen.toNat).foldl (fun cap i => putBit cap i (f.hist.getLsbD (f.patLen.toNat - 1 - i))) f.cap

/-- `start_capture()` (R165). -/
def Framer.startCapture (f : Framer) : Framer :=
  { f with
    fstate := .capturing
    tsPend := f.bitCount
    cap := if f.incSync then f.capWindow else f.cap
    cc := if f.incSync then BitVec.ofNat 13 f.patLen.toNat else 0#13 }

/-- `CAP[CC] <- b; CC <- CC + 1` (R163). -/
def Framer.append (f : Framer) (b : Bool) : Framer :=
  { f with cap := putBit f.cap f.cc.toNat b, cc := BitVec.ofNat 13 (f.cc.toNat + 1) }

/-- `CAP[0 .. TOT-1]`. -/
def Framer.frameBits (f : Framer) : Bits := (List.range f.total).map fun i => f.cap.getLsbD i

/-- The framer's own registers after a dispatch (R168). -/
def Framer.dispatched (f : Framer) : Framer :=
  { f with
    frameLen := BitVec.ofNat 13 f.total
    frameTs := f.tsPend
    framePatId := f.patId
    fstate := .searching
    cc := 0#13 }

/-- `dispatch()` (R168). -/
def dispatchFrame (s : State) : State :=
  ((s.withBm (bmWrite s.bm s.frm.dst.toNat s.frm.frameBits)).withFrm s.frm.dispatched).withFrameReady true

/-- What one bit of the framer gives: the state, the event set and the distance (R163). -/
structure BitResult where
  state : State
  events : Events
  dist : Nat

/-- `step(b)` (R163). -/
def pushBit (s : State) (b : Bool) : BitResult :=
  let f := s.frm.shiftIn b
  let d := f.distance
  match f.fstate with
  | .searching =>
    if f.isMatch then ⟨s.withFrm f.startCapture, ⟨true, false, false⟩, d⟩
    else ⟨s.withFrm f, .none, d⟩
  | .capturing =>
    if f.isMatch && f.preempt then ⟨s.withFrm f.startCapture, ⟨true, false, true⟩, d⟩
    else
      let f := f.append b
      if f.cc.toNat = f.total then ⟨dispatchFrame (s.withFrm f), ⟨false, true, false⟩, d⟩
      else ⟨s.withFrm f, .none, d⟩

/-- What a run of bits gives: besides, how many bits were consumed (R172). -/
structure RunResult where
  state : State
  events : Events
  dist : Nat
  count : Nat

/-- The loop of FRM_PUSHRANGE (R172): at most `left` further bits, the next at bit address `a`, read when consumed; it stops
right after a dispatch. -/
def pushBits : Nat → Nat → RunResult → RunResult
  | 0, _, r => r
  | left + 1, a, r =>
    let p := pushBit r.state (bmBit r.state.bm a)
    let r' : RunResult := ⟨p.state, r.events.union p.events, p.dist, r.count + 1⟩
    if p.events.frame then r' else pushBits left (a + 1) r'

/-- The state change of FRM_RESET (R174), also of a host write to a framer configuration register (10_state.md R62). -/
def Framer.resetCapture (f : Framer) : Framer :=
  { f with fstate := .searching, cc := 0#13, cap := 0#4096, tsPend := 0#32 }

/-- FRM_RESET (R174). -/
def execFrmReset (s : State) : StepResult :=
  runCommand .frmReset [] (s.withFrm s.frm.resetCapture) ⟨0#32, 0#32, 0#32, 0#32⟩ s

/-- FRM_PUSHBIT (R170). -/
def execFrmPushbit (bit : Bool) (s : State) : StepResult :=
  let p := pushBit s bit
  runCommand (.frmPushbit bit) [(s.frm.configOk, .config), (!s.status.frameReady, .pending)]
    p.state ⟨1#32, word p.events.mask, word p.dist, 0#32⟩ s

/-- FRM_PUSHRANGE (R172). -/
def execFrmPushrange (s : State) : StepResult :=
  let p := pushBits s.arg1 s.arg0 ⟨s, .none, 0, 0⟩
  runCommand .frmPushrange
    [(s.frm.configOk, .config), (!s.status.frameReady, .pending), (validRange s.arg0 s.arg1, .range)]
    p.state ⟨word p.count, word p.events.mask, word p.dist, 0#32⟩ s

/-- FRM_ACK (R175). -/
def execFrmAck (s : State) : StepResult :=
  runCommand .frmAck [] (s.withFrameReady false) ⟨0#32, 0#32, 0#32, 0#32⟩ s

end Sys2Proof.Machine
end

