-- ==== Sys2Proof/Machine/Bus.lean ====
section
/-! DEFINITION. The host window (20_memory.md R80 to R90, 10_state.md R31 to R63): which register an offset reaches, what a
read returns and what a write does, idle and during BUSY (70_reset_and_hazards.md R337), and the host's part of one cycle. -/

namespace Sys2Proof.Machine

/-- What a word of the window holds (10_state.md R63). -/
inductive Target where
  | id | ctrl | status | cmd
  | arg0 | arg1 | arg2
  | res0 | res1 | res2 | res3
  | ccnt | bitCount
  | corrLen | corrThresh | corrScore | corrWp
  | frmPatLo | frmPatHi | frmCfg | frmFlen | frmDst
  | frameLen | frameTs | framePatId
  | frmHistLo | frmHistHi | frmHfill | frmCcount
  | vitCfg | vitG0 | vitG1
  | bchT | bchGenLo | bchGenHi
  | crcCfg | crcPoly | crcInit | crcXorOut
  /-- REF[i] (R42). -/
  | ref (i : Nat)
  /-- SYMBUF[i] (R43). -/
  | symbuf (i : Nat)
  /-- BM word w (R59). -/
  | bm (w : Nat)
  /-- VITTAB[e] (R53). -/
  | vitTab (e : Nat)
  /-- Every other offset: reads 0, writes ignored (R60). -/
  | unmapped
deriving DecidableEq, Repr

/-- The registers of offsets `0x000`..`0x1FC` (R63). -/
def controlTarget : Nat → Target
  | 0x000 => .id
  | 0x004 => .ctrl
  | 0x008 => .status
  | 0x00C => .cmd
  | 0x010 => .arg0
  | 0x014 => .arg1
  | 0x018 => .arg2
  | 0x020 => .res0
  | 0x024 => .res1
  | 0x028 => .res2
  | 0x02C => .res3
  | 0x030 => .ccnt
  | 0x034 => .bitCount
  | 0x040 => .corrLen
  | 0x044 => .corrThresh
  | 0x048 => .corrScore
  | 0x04C => .corrWp
  | 0x060 => .frmPatLo
  | 0x064 => .frmPatHi
  | 0x068 => .frmCfg
  | 0x06C => .frmFlen
  | 0x070 => .frmDst
  | 0x074 => .frameLen
  | 0x078 => .frameTs
  | 0x07C => .framePatId
  | 0x080 => .frmHistLo
  | 0x084 => .frmHistHi
  | 0x088 => .frmHfill
  | 0x08C => .frmCcount
  | 0x0A0 => .vitCfg
  | 0x0A4 => .vitG0
  | 0x0A8 => .vitG1
  | 0x0C0 => .bchT
  | 0x0C4 => .bchGenLo
  | 0x0C8 => .bchGenHi
  | 0x0E0 => .crcCfg
  | 0x0E4 => .crcPoly
  | 0x0E8 => .crcInit
  | 0x0EC => .crcXorOut
  | _ => .unmapped

/-- The register an offset reaches: offset bits [1:0] are ignored (20_memory.md R80, R82). -/
def target (off : BitVec 12) : Target :=
  let o := off.toNat / 4 * 4
  if o < 0x200 then controlTarget o
  else if o < 0x300 then .ref ((o - 0x200) / 4)
  else if o < 0x400 then .symbuf ((o - 0x300) / 4)
  else if o < 0x800 then .bm ((o - 0x400) / 4)
  else .vitTab ((o - 0x800) / 4)

/-- FRM_CFG as a host read returns it (10_state.md R45). -/
def Framer.cfgWord (f : Framer) : Word :=
  f.patLen.setWidth 32 ||| (f.maxErr.setWidth 32 <<< 8) ||| bitAt f.preempt 16 ||| bitAt f.incSync 17
  ||| (f.patId.setWidth 32 <<< 24)

/-- VIT_CFG as a host read returns it (R51). -/
def Vit.cfgWord (v : Vit) : Word := v.k.setWidth 32 ||| (v.n.setWidth 32 <<< 4) ||| (v.m.setWidth 32 <<< 8)

/-- A VITTAB entry as a host read returns it (R53). -/
def VitEntry.toWord (e : VitEntry) : Word := e.next.setWidth 32 ||| (e.out.setWidth 32 <<< 8)

/-- CRC_CFG as a host read returns it (R57). -/
def Crc.cfgWord (c : Crc) : Word := c.w.setWidth 32 ||| (c.trial.setWidth 32 <<< 8)

/-- What a host read of a target returns while idle; no read has a side effect (20_memory.md R90). -/
def State.readTarget (s : State) : Target → Word
  | .id => Config.idValue
  | .ctrl => s.ctrlWord
  | .status => s.statusWord
  | .cmd => 0#32
  | .arg0 => s.args.arg0
  | .arg1 => s.args.arg1
  | .arg2 => s.args.arg2
  | .res0 => s.res.res0
  | .res1 => s.res.res1
  | .res2 => s.res.res2
  | .res3 => s.res.res3
  | .ccnt => s.ccnt
  | .bitCount => s.frm.bitCount
  | .corrLen => s.corr.len.setWidth 32
  | .corrThresh => s.corr.thresh
  | .corrScore => s.corr.score
  | .corrWp => s.corr.wp.setWidth 32
  | .frmPatLo => s.frm.patLo
  | .frmPatHi => s.frm.patHi
  | .frmCfg => s.frm.cfgWord
  | .frmFlen => s.frm.flen.setWidth 32
  | .frmDst => s.frm.dst
  | .frameLen => s.frm.frameLen.setWidth 32
  | .frameTs => s.frm.frameTs
  | .framePatId => s.frm.framePatId.setWidth 32
  | .frmHistLo => s.frm.hist.extractLsb' 0 32
  | .frmHistHi => s.frm.hist.extractLsb' 32 32
  | .frmHfill => s.frm.hfill.setWidth 32
  | .frmCcount => s.frm.cc.setWidth 32
  | .vitCfg => s.vit.cfgWord
  | .vitG0 => s.vit.g0.setWidth 32
  | .vitG1 => s.vit.g1.setWidth 32
  | .bchT => s.bch.t.setWidth 32
  | .bchGenLo => s.bch.genLo
  | .bchGenHi => s.bch.genHi
  | .crcCfg => s.crc.cfgWord
  | .crcPoly => s.crc.poly
  | .crcInit => s.crc.init
  | .crcXorOut => s.crc.xorOut
  | .ref i => slot s.corr.ref i 0#32
  | .symbuf i => slot s.corr.symbuf i 0#32
  | .bm w => bmWord s.bm w
  | .vitTab e => (slot s.vit.tab e ⟨0#6, 0#4⟩).toWord
  | .unmapped => 0#32

/-- A framer configuration register written: the capture is reset with it (10_state.md R62 (b)). -/
def State.configureFrm (s : State) (f : Framer) : State := s.withFrm f.resetCapture

/-- A host write to CMD while idle issues the command: the word is latched and BUSY rises (R34). The command takes one
cycle and a free number of further ones (70_reset_and_hazards.md R336; log 2). -/
def State.issue (s : State) (v : Word) : State :=
  (s.withInFlight (some ⟨v, Config.extraLatency s.draws⟩)).withDraws (s.draws + 1)

/-- What a host write of `v` to a target does while idle (10_state.md R31 to R62). -/
def State.writeTarget (s : State) (v : Word) : Target → State
  | .id => s
  | .ctrl => s.writeCtrl v
  | .status => s.writeStatus v
  | .cmd => s.issue v
  | .arg0 => s.withArgs { s.args with arg0 := v }
  | .arg1 => s.withArgs { s.args with arg1 := v }
  | .arg2 => s.withArgs { s.args with arg2 := v }
  | .res0 => s
  | .res1 => s
  | .res2 => s
  | .res3 => s
  | .ccnt => s.withCcnt v
  | .bitCount => s
  | .corrLen => s.withCorr (Corr.clear { s.corr with len := v.extractLsb' 0 7 })
  | .corrThresh => s.withCorr { s.corr with thresh := v }
  | .corrScore => s
  | .corrWp => s
  | .frmPatLo => s.configureFrm { s.frm with patLo := v }
  | .frmPatHi => s.configureFrm { s.frm with patHi := v }
  | .frmCfg =>
    s.configureFrm
      { s.frm with
        patLen := v.extractLsb' 0 7
        maxErr := v.extractLsb' 8 6
        preempt := v.getLsbD 16
        incSync := v.getLsbD 17
        patId := v.extractLsb' 24 8 }
  | .frmFlen => s.configureFrm { s.frm with flen := v.extractLsb' 0 13 }
  | .frmDst => s.configureFrm { s.frm with dst := v }
  | .frameLen => s
  | .frameTs => s
  | .framePatId => s
  | .frmHistLo => s
  | .frmHistHi => s
  | .frmHfill => s
  | .frmCcount => s
  | .vitCfg => s.withVit { s.vit with k := v.extractLsb' 0 3, n := v.extractLsb' 4 3, m := v.extractLsb' 8 3 }
  | .vitG0 => s.withVit { s.vit with g0 := v.extractLsb' 0 7 }
  | .vitG1 => s.withVit { s.vit with g1 := v.extractLsb' 0 7 }
  | .bchT => s.withBch { s.bch with t := v.extractLsb' 0 4 }
  | .bchGenLo => s.withBch { s.bch with genLo := v }
  | .bchGenHi => s.withBch { s.bch with genHi := v }
  | .crcCfg => s.withCrc { s.crc with w := v.extractLsb' 0 6, trial := v.extractLsb' 8 2 }
  | .crcPoly => s.withCrc { s.crc with poly := v }
  | .crcInit => s.withCrc { s.crc with init := v }
  | .crcXorOut => s.withCrc { s.crc with xorOut := v }
  | .ref i => s.withCorr { s.corr with ref := putSlot s.corr.ref i v }
  | .symbuf _ => s
  | .bm w => s.withBm (bmPutWord s.bm w v)
  | .vitTab e => s.withVit { s.vit with tab := putSlot s.vit.tab e ⟨v.extractLsb' 0 6, v.extractLsb' 8 4⟩ }
  | .unmapped => s

/-- A host write (70_reset_and_hazards.md R337): during BUSY every write but those to CTRL and STATUS is dropped and sets
BUSYERR. -/
def State.hostWrite (s : State) (off : BitVec 12) (v : Word) : State :=
  if s.busy && target off != .ctrl && target off != .status then s.raiseBusyErr
  else s.writeTarget v (target off)

/-- A host read (R337): during BUSY every read but those of ID, CTRL and STATUS returns an unspecified value (log 3). The
state of the block does not change (20_memory.md R90). -/
def State.hostRead (s : State) (off : BitVec 12) : State :=
  if s.busy && target off != .id && target off != .ctrl && target off != .status then
    (s.withRdata (Config.busyRead s.draws)).withDraws (s.draws + 1)
  else s.withRdata (s.readTarget (target off))

/-- `wait` polls STATUS once a cycle and is done when BUSY reads 0 (30_encoding.md R117; log 15). `rest` is what follows it
in the host's queue. -/
def State.poll (s : State) (rest : List HostOp) : State :=
  if s.busy then s.withRdata s.statusWord else (s.withRdata s.statusWord).withHost rest

/-- The host's part of one cycle: at most one transaction, the next in program order (20_memory.md R91). -/
def hostCycle (s : State) : StepResult :=
  match s.host with
  | [] => .next s
  | .write off v :: rest => .next ((s.withHost rest).hostWrite off v)
  | .read off :: rest => .next ((s.withHost rest).hostRead off)
  | .wait :: rest => .next (s.poll rest)
  | .idle :: rest => .next (s.withHost rest)
  | .hardReset :: rest => .next (s.withHost rest).resetBlock
  | .narrow off :: _ => .refused (.narrowAccess off)

/-- The value of a STATUS write that the host issues in this cycle, if its next transaction is one. -/
def State.statusWriteNow (s : State) : Option Word :=
  match s.host with
  | .write off v :: _ => if target off = .status then some v else none
  | _ => none

end Sys2Proof.Machine
end

