-- ==== Sys2Proof/Machine/Bch.lean ====
section
/-! DEFINITION. The binary BCH unit of length 63: BCH_ENCODE and BCH_DECODE (44_bch.md R220 to R234). -/

namespace Sys2Proof.Machine

/-- An element of GF(2^6): bit i is the coefficient of x^i (R223). -/
abbrev GF := BitVec 6

/-- Multiplication by α, that is by x modulo x^6 + x + 1 (R223). -/
def gfTimesAlpha (a : GF) : GF := (a <<< 1) ^^^ (if a.getLsbD 5 then 3#6 else 0#6)

/-- `gfmul` (R223): the product's terms a·x^i for the set bits of b, reduced as they are added up. -/
def gfmul (a b : GF) : GF :=
  [5, 4, 3, 2, 1, 0].foldl (fun acc i => gfTimesAlpha acc ^^^ (if b.getLsbD i then a else 0#6)) 0#6

/-- `α^k`: k mod 63 multiplications by α starting from 1 (R223). -/
def alphaPow (k : Nat) : GF := (List.range (k % 63)).foldl (fun a _ => gfTimesAlpha a) 1#6

/-- `gfinv(a)`: the b with `gfmul(a, b) = 1` (R223). `gfinv(0)` is never evaluated (log 19). -/
def gfinv (a : GF) : GF := (((List.range 64).map (BitVec.ofNat 6)).find? fun b => gfmul a b == 1#6).getD 0#6

/-! ## Syndromes (R224) -/

/-- `S_j(r)`: the XOR over the set elements i of `α^(j·(62-i))` (R224). -/
def syndrome (r : Bits) (j : Nat) : GF :=
  (List.range Config.bchN).foldl
    (fun acc i => if r.getD i false then acc ^^^ alphaPow (j * (62 - i)) else acc) 0#6

/-- `(S_1, ..., S_2t)` (R224). -/
def syndromes (t : Nat) (r : Bits) : List GF := (List.range (2 * t)).map fun i => syndrome r (i + 1)

/-- "A zero syndrome means no error" (R224). -/
def allZero (ss : List GF) : Bool := ss.all fun x => x == 0#6

/-! ## The error locator (R225, R226) -/

/-- The coefficient of x^i. -/
def coeff (p : List GF) (i : Nat) : GF := p.getD i 0#6

/-- `Λ XOR c·x^m·B` (R225). -/
def polyAddScaled (lam b : List GF) (c : GF) (m : Nat) : List GF :=
  (List.range (max lam.length (m + b.length))).map fun i =>
    coeff lam i ^^^ (if m ≤ i then gfmul c (coeff b (i - m)) else 0#6)

/-- The variables of the iteration of R225. -/
structure Berlekamp where
  lam : List GF
  prev : List GF
  len : Nat
  gap : Nat
  disc : GF

/-- The start of the iteration: `Λ <- 1; B <- 1; L <- 0; m <- 1; b <- 1` (R225). -/
def Berlekamp.start : Berlekamp := ⟨[1#6], [1#6], 0, 1, 1#6⟩

/-- `δ` of iteration `n` (R225); `ss` is `(S_1, ..., S_2t)`, so `S_{n+1}` is its element n. -/
def Berlekamp.delta (q : Berlekamp) (ss : List GF) (n : Nat) : GF :=
  (List.range q.len).foldl (fun acc i => acc ^^^ gfmul (coeff q.lam (i + 1)) (coeff ss (n - (i + 1)))) (coeff ss n)

/-- Iteration `n` of R225. -/
def Berlekamp.step (ss : List GF) (q : Berlekamp) (n : Nat) : Berlekamp :=
  let d := q.delta ss n
  let lam := polyAddScaled q.lam q.prev (gfmul d (gfinv q.disc)) q.gap
  if d = 0#6 then { q with gap := q.gap + 1 }
  else if 2 * q.len ≤ n then ⟨lam, q.lam, n + 1 - q.len, 1, d⟩
  else { q with lam := lam, gap := q.gap + 1 }

/-- Λ and its length L from the syndromes (R225). -/
def berlekampMassey (ss : List GF) : Berlekamp :=
  let q := (List.range ss.length).foldl (Berlekamp.step ss) Berlekamp.start
  { q with lam := q.lam.take (q.len + 1) }

/-- The value of a polynomial at `x`, highest coefficient first. -/
def polyEval (p : List GF) (x : GF) : GF := p.foldr (fun c acc => c ^^^ gfmul x acc) 0#6

/-- The error positions `p` with `Λ(α^(63-p)) = 0` (R226). -/
def chien (lam : List GF) : List Nat :=
  (List.range Config.bchN).filter fun p => polyEval lam (alphaPow (63 - p)) == 0#6

/-! ## The decision (R227) -/

/-- What `bchdec` returns: outcome, word, count and L. -/
structure BchDecoded where
  outcome : DecodeOutcome
  word : Bits
  count : Nat
  len : Nat

/-- A word with its elements `62 - p` flipped for the positions `p` (R227). -/
def flipPositions (r : Bits) (ps : List Nat) : Bits := ps.foldl (fun w p => flipAt w (62 - p)) r

/-- `bchdec(r, t)` (R227). -/
def bchdec (r : Bits) (t : Nat) : BchDecoded :=
  let ss := syndromes t r
  if allZero ss then ⟨.passed, r, 0, 0⟩
  else
    let q := berlekampMassey ss
    if t < q.len then ⟨.failed, r, 0, q.len⟩
    else
      let ps := chien q.lam
      if ps.length ≠ q.len then ⟨.failed, r, 0, q.len⟩
      else
        let c := flipPositions r ps
        if allZero (syndromes t c) then ⟨.corrected, c, q.len, q.len⟩ else ⟨.failed, r, 0, q.len⟩

/-! ## Encoding (R230) -/

/-- `GEN = BCH_GEN_HI ++ BCH_GEN_LO` (10_state.md R56). -/
def Bch.gen (b : Bch) : Nat := (b.genHi ++ b.genLo).toNat

/-- `deg(GEN)`, the index of its highest set bit; 0 also for GEN = 0 (R221). -/
def Bch.degree (b : Bch) : Nat := b.gen.log2

/-- The configuration check of BCH_ENCODE (R221). -/
def Bch.genOk (b : Bch) : Bool :=
  decide (b.gen ≠ 0) && decide (b.degree ≠ 0) && decide (b.degree ≠ 63)

/-- The remainder of a binary polynomial by `g` of degree `d`, one quotient term at a time: `n` terms from x^(d+n-1)
down. -/
def polyMod (g d : Nat) : Nat → Nat → Nat
  | 0, v => v
  | n + 1, v => polyMod g d n (if v.testBit (d + n) then v ^^^ (g <<< n) else v)

/-- `bchenc(m)` as a 63-bit word (R230): the information first, then the parity field. -/
def bchenc (g d : Nat) (m : Bits) : Bits :=
  let v := num m * 2 ^ d
  bitsOf Config.bchN (v ^^^ polyMod g d (63 - d) v)

/-! ## Commands -/

/-- BCH_ENCODE (R231). -/
def execBchEncode (s : State) : StepResult :=
  let d := s.bch.degree
  let k := 63 - d
  runCommand .bchEncode
    [(s.bch.genOk, .config), (decide (s.arg1 = k), .length), (validRange s.arg0 k, .range),
     (validRange s.arg2 63, .range)]
    (s.withBm (bmWrite s.bm s.arg2 (bchenc s.bch.gen d (bmRead s.bm s.arg0 k))))
    ⟨63#32, word k, word d, 0#32⟩ s

/-- BCH_DECODE (R234): an uncorrectable word is an outcome, not an error (60_exceptions.md R304). -/
def execBchDecode (s : State) : StepResult :=
  let r := bchdec (bmRead s.bm s.arg0 63) s.bch.t.toNat
  runCommand .bchDecode
    [(decide (s.bch.t.toNat ≠ 0), .config), (decide (s.arg1 = 63), .length), (validRange s.arg0 63, .range),
     (validRange s.arg2 63, .range)]
    ((s.withBm (bmWrite s.bm s.arg2 r.word)).addCorrected r.count)
    ⟨r.outcome.code, word r.count, word r.len, 0#32⟩ s

end Sys2Proof.Machine
end

