-- ==== Sys2Proof/Machine/BitVector.lean ====
section
/-! DEFINITION. NOP and BV_COPY (40_bitvector.md R130, R131). -/

namespace Sys2Proof.Machine

/-- NOP (R130). -/
def execNop (s : State) : StepResult :=
  runCommand .nop [] s ⟨0#32, 0#32, 0#32, 0#32⟩ s

/-- BV_COPY (R131): the whole source is read first (20_memory.md R87). -/
def execBvCopy (s : State) : StepResult :=
  runCommand .bvCopy
    [(validRange s.arg0 s.arg1, .range), (validRange s.arg2 s.arg1, .range)]
    (s.withBm (bmWrite s.bm s.arg2 (bmRead s.bm s.arg0 s.arg1)))
    ⟨s.args.arg1, 0#32, 0#32, 0#32⟩ s

end Sys2Proof.Machine
end

