-- ==== Sys2Proof/Machine/Crc.lean ====
section
/-! DEFINITION. The CRC polynomial divider and bit-flip trial corrector: CRC_GEN and CRC_VERIFY (45_crc.md R250 to R264). -/

namespace Sys2Proof.Machine

/-- W as a number (10_state.md R57). -/
def Crc.width (c : Crc) : Nat := c.w.toNat
/-- `P = CRC_POLY[W-1:0]`. -/
def Crc.polyW (c : Crc) : Nat := c.poly.toNat % 2 ^ c.width
/-- `I = CRC_INIT[W-1:0]`. -/
def Crc.initW (c : Crc) : Nat := c.init.toNat % 2 ^ c.width
/-- `X = CRC_XOROUT[W-1:0]`. -/
def Crc.xorW (c : Crc) : Nat := c.xorOut.toNat % 2 ^ c.width

/-- The configuration check of R251. -/
def Crc.configOk (c : Crc) : Bool :=
  decide (1 ≤ c.width) && decide (c.width ≤ Config.crcWMax) && decide (c.trial.toNat ≤ 2)

/-- One data bit through the XOR-shift register of width `w` and polynomial `p` (R250). -/
def crcShift (w p reg : Nat) (b : Bool) : Nat :=
  let shifted := (2 * reg) % 2 ^ w
  if reg.testBit (w - 1) ^^ b then shifted ^^^ p else shifted

/-- `crc(b)` (R250). -/
def Crc.checksum (c : Crc) (b : Bits) : Nat := b.foldl (crcShift c.width c.polyW) c.initW ^^^ c.xorW

/-- A message passes when `crc(data) = num(F)` (R253). -/
def Crc.passes (c : Crc) (data field : Bits) : Bool := c.checksum data == num field

/-- The message `Z = data ++ F` passes; `d` is the length of the data (R257). -/
def Crc.passesZ (c : Crc) (d : Nat) (z : Bits) : Bool := c.passes (z.take d) (z.drop d)

/-- The passing candidates of weight 1, ascending (R258). -/
def Crc.singles (c : Crc) (d : Nat) (z : Bits) : List Nat :=
  (List.range z.length).filter fun p => c.passesZ d (flipAt z p)

/-- The passing candidates of weight 2 (R258). -/
def Crc.pairs (c : Crc) (d : Nat) (z : Bits) : List (Nat × Nat) :=
  (List.range z.length).flatMap fun p =>
    ((List.range z.length).filter fun q =>
      decide (p < q) && c.passesZ d (flipAt (flipAt z p) q)).map fun q => (p, q)

/-- What `crcver` returns: the outcome and the positions to flip, none, one or two. -/
structure CrcVerdict where
  outcome : DecodeOutcome
  positions : List Nat

/-- `crcver(data, F)` on `Z = data ++ F` (R258). -/
def Crc.verdict (c : Crc) (d : Nat) (z : Bits) : CrcVerdict :=
  if c.passesZ d z then ⟨.passed, []⟩
  else if c.trial.toNat = 0 then ⟨.failed, []⟩
  else
    match c.singles d z with
    | [p] => ⟨.corrected, [p]⟩
    | _ :: _ :: _ => ⟨.failed, []⟩
    | [] =>
      if c.trial.toNat = 1 then ⟨.failed, []⟩
      else
        match c.pairs d z with
        | [(p, q)] => ⟨.corrected, [p, q]⟩
        | _ => ⟨.failed, []⟩

/-- Position `i` of a verdict as a result register: NONE where there is none (R258). -/
def CrcVerdict.position (v : CrcVerdict) (i : Nat) : Word :=
  match v.positions[i]? with
  | some p => word p
  | none => noPosition

/-- BM after CRC_VERIFY: a correction rewrites data and field, PASSED and FAILED write nothing (R264). -/
def crcWriteBack (m : Memory) (a d f : Nat) (z : Bits) (v : CrcVerdict) : Memory :=
  match v.outcome with
  | .corrected =>
    let z := v.positions.foldl flipAt z
    bmWrite (bmWrite m a (z.take d)) f (z.drop d)
  | .passed => m
  | .failed => m

/-- The checks shared by CRC_GEN and CRC_VERIFY, in their order (R251, R254). -/
def crcChecks (s : State) : List (Bool × CmdError) :=
  [(s.crc.configOk, .config), (decide (s.arg1 ≤ Config.crcMaxBits), .length),
   (validRange s.arg0 s.arg1, .range), (validRange s.arg2 s.crc.width, .range),
   (disjointRanges s.arg0 s.arg1 s.arg2 s.crc.width, .range)]

/-- CRC_GEN (R256). -/
def execCrcGen (s : State) : StepResult :=
  let v := s.crc.checksum (bmRead s.bm s.arg0 s.arg1)
  runCommand .crcGen (crcChecks s)
    (s.withBm (bmWrite s.bm s.arg2 (bitsOf s.crc.width v)))
    ⟨word v, s.args.arg1, 0#32, 0#32⟩ s

/-- CRC_VERIFY (R264): a failing checksum is an outcome, not an error (60_exceptions.md R304). -/
def execCrcVerify (s : State) : StepResult :=
  let z := bmRead s.bm s.arg0 s.arg1 ++ bmRead s.bm s.arg2 s.crc.width
  let v := s.crc.verdict s.arg1 z
  runCommand .crcVerify (crcChecks s)
    ((s.withBm (crcWriteBack s.bm s.arg0 s.arg1 s.arg2 z v)).addCorrected v.positions.length)
    ⟨v.outcome.code, word v.positions.length, v.position 0, v.position 1⟩ s

end Sys2Proof.Machine
end

