-- ==== Sys2Proof/Machine/Viterbi.lean ====
section
/-! DEFINITION. The Viterbi survivor-path decoder: VIT_GENTAB, VIT_ENCODE, VIT_DECODE (43_viterbi.md R190 to R204). The
metric and backtrace tables are values local to one decode (10_state.md R54). -/

namespace Sys2Proof.Machine

/-- K as a number (10_state.md R51). -/
def Vit.kBits (v : Vit) : Nat := v.k.toNat
/-- N as a number (R51). -/
def Vit.nBits (v : Vit) : Nat := v.n.toNat
/-- `S = 2^M` (R190). -/
def Vit.states (v : Vit) : Nat := 2 ^ v.m.toNat
/-- `2^K`, the number of input values of one step (R190). -/
def Vit.inputs (v : Vit) : Nat := 2 ^ v.kBits

/-- Entry `8s + u` of VITTAB (10_state.md R53). -/
def Vit.entry (v : Vit) (s u : Nat) : VitEntry := slot v.tab (8 * s + u) ⟨0#6, 0#4⟩
/-- `NEXT(s, u)` (R190). -/
def Vit.next (v : Vit) (s u : Nat) : Nat := (v.entry s u).next.toNat
/-- `OUT(s, u)` (R190). -/
def Vit.out (v : Vit) (s u : Nat) : Nat := (v.entry s u).out.toNat

/-- The edges of one trellis step, in ascending state and, within a state, ascending input (R199). -/
def Vit.edges (v : Vit) : List (Nat × Nat) :=
  (List.range v.states).flatMap fun s => (List.range v.inputs).map fun u => (s, u)

/-! ## Configuration checks (R191) -/

/-- R191 (a). -/
def Vit.shapeOk (v : Vit) : Bool :=
  [(1, 2), (2, 4), (3, 4)].contains (v.kBits, v.nBits)
  && decide (1 ≤ v.m.toNat) && decide (v.m.toNat ≤ Config.vitMMax)

/-- R191 (b). -/
def Vit.tableOk (v : Vit) : Bool :=
  v.edges.all fun e => decide (v.next e.1 e.2 < v.states) && decide (v.out e.1 e.2 < 2 ^ v.nBits)

/-- R191 (c). -/
def Vit.generatorsOk (v : Vit) : Bool :=
  decide ((v.kBits, v.nBits) = (1, 2))
  && decide (v.g0.toNat < 2 ^ (v.m.toNat + 1)) && decide (v.g1.toNat < 2 ^ (v.m.toNat + 1))

/-! ## The generator-polynomial trellis (R194) -/

/-- `parity(v)` of a generator register value, of at most seven bits. -/
def parity7 (x : Nat) : Nat := onesBelow 7 x % 2

/-- `reg = (u << M) | s` (R194). -/
def Vit.encoderReg (v : Vit) (s u : Nat) : Nat := (u <<< v.m.toNat) ||| s

/-- The entry of edge `(s, u)` of the generator code (R194, R195). -/
def Vit.generated (v : Vit) (s u : Nat) : VitEntry :=
  let reg := v.encoderReg s u
  ⟨BitVec.ofNat 6 (reg >>> 1),
   BitVec.ofNat 4 (2 * parity7 (reg &&& v.g0.toNat) + parity7 (reg &&& v.g1.toNat))⟩

/-- VITTAB after VIT_GENTAB: the entries with `s < S` and `u < 2` are written, the others keep their contents (R195). -/
def Vit.generatedTable (v : Vit) : Vector VitEntry 512 :=
  (List.range v.states).foldl
    (fun tab s => (List.range 2).foldl (fun tab u => putSlot tab (8 * s + u) (v.generated s u)) tab) v.tab

/-! ## The encoder (R196) -/

/-- One result of the encoder: the coded bits and the end state. -/
structure Encoded where
  code : Bits
  state : Nat

/-- `enc` from state `s` over the input values `us` (R196). -/
def Vit.encodeFrom (v : Vit) : Nat → List Nat → Encoded
  | s, [] => ⟨[], s⟩
  | s, u :: us =>
    let rest := v.encodeFrom (v.next s u) us
    ⟨bitsOf v.nBits (v.out s u) ++ rest.code, rest.state⟩

/-- The `t` groups of `k` bits at the head of a vector, each read as a number (R192). -/
def groups (k : Nat) : Nat → Bits → List Nat
  | 0, _ => []
  | t + 1, b => num (b.take k) :: groups k t (b.drop k)

/-- `enc(I)` of an information vector of `T·K` bits (R196); it starts in state 0 (R193). -/
def Vit.enc (v : Vit) (info : Bits) : Encoded :=
  v.encodeFrom 0 (groups v.kBits (info.length / v.kBits) info)

/-! ## The decoder (R199 to R202) -/

/-- INF, the metric of an unreachable state (R199). -/
def vitInf : Nat := 0xFFFF

/-- One row of the forward pass: the new metrics and the surviving edge into each state. -/
structure AcsRow where
  metrics : List Nat
  survivors : List (Nat × Nat)

/-- One candidate edge of the add-compare-select (R199): it replaces the survivor only if strictly better. -/
def Vit.acsEdge (v : Vit) (r : Nat) (pm : List Nat) (row : AcsRow) (e : Nat × Nat) : AcsRow :=
  let m0 := pm.getD e.1 vitInf
  if m0 = vitInf then row
  else
    let s2 := v.next e.1 e.2
    let m := m0 + hammingBelow v.nBits (v.out e.1 e.2) r
    if m < row.metrics.getD s2 vitInf then ⟨row.metrics.set s2 m, row.survivors.set s2 e⟩ else row

/-- One trellis step of the forward pass for the received group `r` (R199). -/
def Vit.acsStep (v : Vit) (r : Nat) (pm : List Nat) : AcsRow :=
  v.edges.foldl (v.acsEdge r pm) ⟨List.replicate v.states vitInf, List.replicate v.states (0, 0)⟩

/-- The metrics at the start: state 0 alone is reachable (R193, R199). -/
def Vit.startMetrics (v : Vit) : List Nat := (List.replicate v.states vitInf).set 0 0

/-- What the forward pass leaves: the final metrics and BP, latest step first. -/
structure Forward where
  metrics : List Nat
  survivors : List (List (Nat × Nat))

/-- The forward pass over the received groups (R199). -/
def Vit.forward (v : Vit) : List Nat → Forward → Forward
  | [], fw => fw
  | r :: rs, fw =>
    let row := v.acsStep r fw.metrics
    v.forward rs ⟨row.metrics, row.survivors :: fw.survivors⟩

/-- The least metric. -/
def leastMetric (pm : List Nat) : Nat := pm.foldl min vitInf

/-- `s_f`: the lowest-indexed state of least metric (R200). -/
def finalState (pm : List Nat) : Nat := pm.findIdx fun m => m == leastMetric pm

/-- The backtrace from state `s` over BP, latest step first, in front of the inputs already found (R201). -/
def backtrace : List (List (Nat × Nat)) → Nat → List Nat → List Nat
  | [], _, us => us
  | row :: rows, s, us =>
    let e := row.getD s (0, 0)
    backtrace rows e.1 (e.2 :: us)

/-- What one decode gives: the decoded input values, `PM[s_f]` and `s_f`. -/
structure VitDecoded where
  inputs : List Nat
  metric : Nat
  final : Nat

/-- The decode of the received groups (R199 to R201). -/
def Vit.decodeGroups (v : Vit) (rs : List Nat) : VitDecoded :=
  let fw := v.forward rs ⟨v.startMetrics, []⟩
  let sf := finalState fw.metrics
  ⟨backtrace fw.survivors sf [], fw.metrics.getD sf vitInf, sf⟩

/-! ## Commands -/

/-- VIT_GENTAB (R195). -/
def execVitGentab (s : State) : StepResult :=
  runCommand .vitGentab [(s.vit.shapeOk, .config), (s.vit.generatorsOk, .config)]
    (s.withVit { s.vit with tab := s.vit.generatedTable })
    ⟨word (2 * s.vit.states), 0#32, 0#32, 0#32⟩ s

/-- VIT_ENCODE (R197). -/
def execVitEncode (s : State) : StepResult :=
  let v := s.vit
  let t := s.arg1 / v.kBits
  let c := v.enc (bmRead s.bm s.arg0 s.arg1)
  runCommand .vitEncode
    [(v.shapeOk, .config), (v.tableOk, .config), (decide (s.arg1 % v.kBits = 0), .length),
     (validRange s.arg0 s.arg1, .range), (validRange s.arg2 (t * v.nBits), .range)]
    (s.withBm (bmWrite s.bm s.arg2 c.code))
    ⟨word (t * v.nBits), word c.state, word t, 0#32⟩ s

/-- VIT_DECODE (R203): the count of R202 is `PM[s_f] + trunc`. -/
def execVitDecode (s : State) : StepResult :=
  let v := s.vit
  let t := s.arg1 / v.nBits
  let trunc := s.arg1 % v.nBits
  let d := v.decodeGroups (groups v.nBits t (bmRead s.bm s.arg0 s.arg1))
  let dec := d.inputs.flatMap (bitsOf v.kBits)
  let ec := d.metric + trunc
  runCommand .vitDecode
    [(v.shapeOk, .config), (v.tableOk, .config), (decide (t ≤ Config.vitMaxSteps), .length),
     (validRange s.arg0 s.arg1, .range), (validRange s.arg2 (t * v.kBits), .range)]
    ((s.withBm (bmWrite s.bm s.arg2 dec)).addCorrected ec)
    ⟨word (t * v.kBits), word ec, word d.final, word trunc⟩ s

end Sys2Proof.Machine
end

