-- ==== Sys2Proof/Machine/Dispatch.lean ====
section
/-! DEFINITION. One arm per command: the execution of a command to its completion, of 30_encoding.md R114. -/

namespace Sys2Proof.Machine

def exec (i : Instr) (s : State) : Host.Outcome State Fault Refusal :=
  match i with
  | .nop => Sys2Proof.Machine.execNop s
  | .corrClear => Sys2Proof.Machine.execCorrClear s
  | .corrPush => Sys2Proof.Machine.execCorrPush s
  | .corrScore => Sys2Proof.Machine.execCorrScore s
  | .frmReset => Sys2Proof.Machine.execFrmReset s
  | .frmPushbit bit => Sys2Proof.Machine.execFrmPushbit bit s
  | .frmPushrange => Sys2Proof.Machine.execFrmPushrange s
  | .frmAck => Sys2Proof.Machine.execFrmAck s
  | .bvCopy => Sys2Proof.Machine.execBvCopy s
  | .vitGentab => Sys2Proof.Machine.execVitGentab s
  | .vitEncode => Sys2Proof.Machine.execVitEncode s
  | .vitDecode => Sys2Proof.Machine.execVitDecode s
  | .bchEncode => Sys2Proof.Machine.execBchEncode s
  | .bchDecode => Sys2Proof.Machine.execBchDecode s
  | .crcGen => Sys2Proof.Machine.execCrcGen s
  | .crcVerify => Sys2Proof.Machine.execCrcVerify s

end Sys2Proof.Machine
end

