-- ==== Sys2Proof/Machine/Sequencer.lean ====
section
/-! DEFINITION. One cycle of the machine: first the core sequencer's part, then the host's (00_scope.md R7, 60_exceptions.md
R312, 70_reset_and_hazards.md R336). -/

namespace Sys2Proof.Machine

/-- The completion of the command in progress: the latched word is decoded and executed; an illegal word completes with
error ILLEGAL (30_encoding.md R115). -/
def runWord (w : Word) (s : State) : StepResult :=
  match decode w with
  | .ok i => exec i s
  | .error _ => .next (s.raiseIllegal w)

/-- The cycle in which the command in progress completes. The completion comes first and the host's transaction of the same
cycle meets the completed state, except that a W1C write to STATUS clears no bit which that completion sets
(60_exceptions.md R312; log 18): its clearing is applied before the completion. -/
def completingCycle (w : Word) (s : State) : StepResult :=
  match s.statusWriteNow with
  | some v => runWord w ((s.withHost s.host.tail).writeStatus v)
  | none => andThen (runWord w s) hostCycle

/-- One cycle (log 17): the command in progress completes or comes one cycle nearer to it, then the host has its turn. -/
def cycle (s : State) : StepResult :=
  match s.inFlight with
  | none => hostCycle s
  | some ⟨w, 0⟩ => completingCycle w s
  | some ⟨w, left + 1⟩ => hostCycle (s.withInFlight (some ⟨w, left⟩))

/-- The command `w` in progress, to complete in the next cycle (log 8). -/
def State.latch (s : State) (w : Word) : State := s.withInFlight (some ⟨w, 0⟩)

end Sys2Proof.Machine
end

