-- ==== Sys2Proof/Machine/Step.lean ====
section
/-! DEFINITION. The step of the machine is one cycle; where the next command to run is placed. -/

namespace Sys2Proof.Machine

/-- One step: one cycle of the block and its host. -/
def step (s : State) : Host.Outcome State Fault Refusal := cycle s

/-- The state in which the host's CMD write of the word has been accepted and the command completes in the next step
(log 8): nothing but the command in progress changes. -/
def State.withFetchWord (s : State) (nbits w : Nat) : State := s.latch (BitVec.ofNat 32 (w % 2 ^ nbits))

end Sys2Proof.Machine
end

