-- ==== Sys2Proof/Safety.lean ====
section
/-! DEFINITION. The terms claims use: the invariant of a state, what a store to BM leaves alone, when the block is idle, and
the arithmetic of polynomials over GF(2) that the encoders are measured against. -/

namespace Sys2Proof.Machine

/-! ## The invariant -/

/-- The framer's registers agree with each other (10_state.md R46, R48 to R50): HFILL saturates at 64; CC is 0 while
SEARCHING; a capture runs only under a legal configuration and is not yet complete. -/
structure Framer.Inv (f : Framer) : Prop where
  hfill_le : f.hfill.toNat ≤ 64
  frameLen_le : f.frameLen.toNat ≤ Config.frmCapBits
  searching_empty : f.fstate = .searching → f.cc = 0#13
  capturing_open : f.fstate = .capturing → f.configOk = true ∧ f.cc.toNat < f.total

/-- What every step keeps: the memory's canonical form inside the BM window, `WP < N whenever N is legal` (R41), the
framer's invariant, and an ERRCODE of R302. -/
structure State.Inv (s : State) : Prop where
  memory_wf : Memory.wf s.bm = true
  memory_inWindow : Memory.inWindow s.bm = true
  wp_lt : s.corr.lenOk = true → s.corr.wp.toNat < s.corr.len.toNat
  framer : s.frm.Inv
  errCode_le : s.status.errCode.toNat ≤ 5

/-- No command is in progress and the host has nothing to do. -/
def State.quiet (s : State) : Prop := s.inFlight = none ∧ s.host = []

/-! ## Frames of memory -/

/-- `m'` differs from `m` at most in the bits of the range `(d, n)`: every other bit of BM and every byte that holds none of
them reads as before. -/
def onlyBitsWritten (m m' : Memory) (d n : Nat) : Prop :=
  (∀ x, (x < d ∨ d + n ≤ x) → bmBit m' x = bmBit m x)
  ∧ ∀ o, (∀ x, d ≤ x → x < d + n → bitByte x ≠ o) → Memory.read m' o = Memory.read m o

/-- `t` is `s` after a successful completion whose own changes are those of `changed` (60_exceptions.md R300). -/
def completed (opc : BitVec 8) (r : Results) (changed : State) : State :=
  { changed with
    res := r
    status := { changed.status with errCode := 0#4, lastOp := opc, done := true }
    inFlight := none }

/-- `s` after an error completion (60_exceptions.md R301). -/
def turnedAway (opc : BitVec 8) (code : BitVec 4) (s : State) : State :=
  { s with
    status := { s.status with errCode := code, lastOp := opc, err := true, done := true }
    inFlight := none }

/-- No result beyond the ones a rule names (10_state.md R35). -/
def noResults : Results := ⟨0#32, 0#32, 0#32, 0#32⟩

/-- The saturating sum of 10_state.md R36. -/
def saturated (c : Word) (n : Nat) : Word := BitVec.ofNat 32 (min (c.toNat + n) 0xFFFFFFFF)

/-! ## Polynomials over GF(2), bit j the coefficient of x^j -/

/-- The product of two binary polynomials, over the low `n` bits of the first. -/
def gf2MulBits : Nat → Nat → Nat → Nat
  | 0, _, _ => 0
  | n + 1, a, b => gf2MulBits n a b ^^^ (if a.testBit n then b * 2 ^ n else 0)

/-- The product of two binary polynomials. -/
def gf2Mul (a b : Nat) : Nat := gf2MulBits (a.log2 + 1) a b

/-- The Hamming distance of two bit vectors of one length. -/
def hd (a b : Bits) : Nat := (List.zipWith (fun x y => (x ^^ y).toNat) a b).sum

end Sys2Proof.Machine
end

