-- ==== Sys2Proof/Certificates/Slice0/Obligations.lean ====
section
/-! DEFINITION. The statements for the provers, from the numbered rules of spec/. A store is described by what BM reads
afterwards; everything else of the next state is written out through `completed` (60_exceptions.md R300) and `turnedAway`
(R301), record updates of the state before. -/

/-! ## Terms of the statements -/

namespace Sys2Proof.Machine

/-- The framer's configuration is legal (42_framer.md R162), in plain numbers. -/
def legalFramer (f : Framer) : Prop :=
  1 ≤ f.patLen.toNat ∧ f.patLen.toNat ≤ 64 ∧ 1 ≤ f.flen.toNat ∧ f.total ≤ 4096 ∧ f.dst.toNat + f.total ≤ 8192

/-- R191 (a). -/
def legalShape (v : Vit) : Prop :=
  ((v.kBits = 1 ∧ v.nBits = 2) ∨ (v.kBits = 2 ∧ v.nBits = 4) ∨ (v.kBits = 3 ∧ v.nBits = 4))
  ∧ 1 ≤ v.m.toNat ∧ v.m.toNat ≤ 6

/-- R191 (b). -/
def legalTable (v : Vit) : Prop :=
  ∀ st u, st < 2 ^ v.m.toNat → u < 2 ^ v.kBits → v.next st u < 2 ^ v.m.toNat ∧ v.out st u < 2 ^ v.nBits

/-- R191 (a) and (c). -/
def legalGenerators (v : Vit) : Prop :=
  v.kBits = 1 ∧ v.nBits = 2 ∧ 1 ≤ v.m.toNat ∧ v.m.toNat ≤ 6
  ∧ v.g0.toNat < 2 ^ (v.m.toNat + 1) ∧ v.g1.toNat < 2 ^ (v.m.toNat + 1)

/-- The edge that the encoding of `info` takes at step `j`: the state before the step, and the input value (43_viterbi.md
R192, R196). -/
def Vit.edgeAt (v : Vit) (info : Bits) (j : Nat) : Nat × Nat :=
  ((v.enc (info.take (j * v.kBits))).state, num ((info.drop (j * v.kBits)).take v.kBits))

/-- The range `(a, n)` lies in BM (20_memory.md R86). -/
def inBm (a n : Nat) : Prop := a + n ≤ 8192

/-- Every bit outside the ranges `(a, n)` and `(f, w)`, and every byte that holds none of theirs, reads as before. -/
def onlyTwoRangesWritten (m m' : Memory) (a n f w : Nat) : Prop :=
  (∀ x, (x < a ∨ a + n ≤ x) → (x < f ∨ f + w ≤ x) → bmBit m' x = bmBit m x)
  ∧ ∀ o, (∀ x, a ≤ x → x < a + n → bitByte x ≠ o) → (∀ x, f ≤ x → x < f + w → bitByte x ≠ o) →
      Memory.read m' o = Memory.read m o

/-- Bits pushed one after another, with no stop at a dispatch. -/
def pushAll (s : State) (bs : Bits) : RunResult :=
  bs.foldl
    (fun r b =>
      let p := pushBit r.state b
      ⟨p.state, r.events.union p.events, p.dist, r.count + 1⟩) ⟨s, .none, 0, 0⟩

/-- The received window, oldest bit first (42_framer.md R164). -/
def receivedWindow (f : Framer) : Bits :=
  (List.range f.patLen.toNat).map fun i => f.hist.getLsbD (f.patLen.toNat - 1 - i)

/-- All syndromes up to 2t vanish (44_bch.md R224). -/
def noSyndrome (t : Nat) (r : Bits) : Prop := ∀ j, 1 ≤ j → j ≤ 2 * t → syndrome r j = 0#6

/-- The checksum's contribution of position `p` (45_crc.md R260). -/
def crcContribution (c : Crc) (d p : Nat) : Nat :=
  if p < d then
    Crc.checksum { c with init := 0#32, xorOut := 0#32 } ((List.replicate d false).set p true)
  else 2 ^ (c.width - 1 - (p - d))

/-- Exponent and fraction of a binary32 word read as one number: at most `0x7F800000` unless the word is a NaN, equal to it
for an infinity. -/
def magnitude (x : Word) : Nat := x.toNat % 2 ^ 31

/-- The value of the magnitude `k` in units of 2^-149; infinity counts as the next value after the largest finite one. -/
def magnitudeUnits (k : Nat) : Nat :=
  if k < 2 ^ 23 then k else (k % 2 ^ 23 + 2 ^ 23) * 2 ^ (k / 2 ^ 23 - 1)

/-- The signed value of a word that is no NaN, in the same units; both zeros have the value 0. -/
def valueUnits (x : Word) : Int :=
  if x.getLsbD 31 then -(magnitudeUnits (magnitude x) : Int) else (magnitudeUnits (magnitude x) : Int)

/-- The CRC operands are legal (45_crc.md R251, R254). -/
def legalCrc (s : State) : Prop :=
  1 ≤ s.crc.width ∧ s.crc.width ≤ 32 ∧ s.crc.trial.toNat ≤ 2 ∧ s.arg1 ≤ 1024 ∧ inBm s.arg0 s.arg1
  ∧ inBm s.arg2 s.crc.width ∧ (s.arg0 + s.arg1 ≤ s.arg2 ∨ s.arg2 + s.crc.width ≤ s.arg0)

end Sys2Proof.Machine

open Sys2Proof Sys2Proof.Machine

/-! ## Encoding -/

/-- A word decodes to a command exactly when it is that command's encoding (30_encoding.md R111, R112, R114). -/
def Obligations.DecodeInvertsEncode : Prop :=
  ∀ (w : Word) (i : Instr), decode w = .ok i ↔ w = encode i

/-- Decoding accepts exactly the legal words (30_encoding.md R115), `legalWord` being said without the decoder's table. -/
def Obligations.DecodeAcceptsExactlyLegalWords : Prop :=
  ∀ w : Word, (∃ i, decode w = .ok i) ↔ legalWord w = true

/-- The command words of 30_encoding.md R114, written out, decode to their commands. -/
def Obligations.WordsOfTheTableDecode : Prop :=
  decode 0x00000000#32 = .ok .nop ∧ decode 0x00000001#32 = .ok .corrClear
  ∧ decode 0x00000010#32 = .ok .frmReset ∧ decode 0x00000011#32 = .ok (.frmPushbit false)
  ∧ decode 0x00000111#32 = .ok (.frmPushbit true) ∧ decode 0x00000020#32 = .ok .bvCopy
  ∧ decode 0x00000032#32 = .ok .vitDecode ∧ decode 0x00000041#32 = .ok .bchDecode
  ∧ decode 0x00000051#32 = .ok .crcVerify

/-- An illegal word is accepted like any other CMD write, performs nothing and completes with ILLEGAL (30_encoding.md R115;
that its completion is one step, and how it meets the host's transaction of that cycle, is the model's, log 17 and
log 18). -/
def Obligations.IllegalWordPerformsNothing : Prop :=
  ∀ (w : Word) (s : State), legalWord w = false →
    (s.inFlight = none → ∃ k, (s.hostWrite 0x00C#12 w).inFlight = some ⟨w, k⟩)
    ∧ (s.inFlight = some ⟨w, 0⟩ →
        (s.host = [] → step s = .next (turnedAway (w.extractLsb' 0 8) 1#4 s))
        ∧ (s.statusWriteNow = none → step s = hostCycle (turnedAway (w.extractLsb' 0 8) 1#4 s))
        ∧ (∀ v, s.statusWriteNow = some v →
            step s = .next (turnedAway (w.extractLsb' 0 8) 1#4 ((s.withHost s.host.tail).writeStatus v))))

/-! ## Steps -/

/-- The three kinds of cycle, and the host's turn in one (the model's cycle, log 17 and log 18). The cycle in which the
command in progress completes runs the decoded command, and the host's transaction of that cycle meets the completed state,
but for a STATUS write, whose clearing comes before. A cycle that completes no command is the host's turn, with a command in
progress one cycle nearer to its completion. In its turn the host performs its next transaction, and `wait` stays while BUSY
(30_encoding.md R117; log 15). `withFetchWord` places exactly a command that completes next. -/
def Obligations.StepRunsDecodedCommand : Prop :=
  (∀ (s : State) (w : Word) (i : Instr), s.inFlight = some ⟨w, 0⟩ → decode w = .ok i →
    (s.host = [] → step s = exec i s)
    ∧ (s.statusWriteNow = none → step s = andThen (exec i s) hostCycle)
    ∧ (∀ v, s.statusWriteNow = some v → step s = exec i ((s.withHost s.host.tail).writeStatus v)))
  ∧ (∀ s : State, s.inFlight = none → step s = hostCycle s)
  ∧ (∀ (s : State) (w : Word) (left : Nat), s.inFlight = some ⟨w, left + 1⟩ →
      step s = hostCycle { s with inFlight := some ⟨w, left⟩ })
  ∧ (∀ (s : State) (rest : List HostOp),
      (s.host = [] → hostCycle s = .next s)
      ∧ (∀ off v, s.host = .write off v :: rest →
          hostCycle s = .next (State.hostWrite { s with host := rest } off v))
      ∧ (∀ off, s.host = .read off :: rest → hostCycle s = .next (State.hostRead { s with host := rest } off))
      ∧ (s.host = .idle :: rest → hostCycle s = .next { s with host := rest })
      ∧ (s.host = .wait :: rest → s.inFlight = none →
          hostCycle s = .next { s with host := rest, rdata := some s.statusWord })
      ∧ (s.host = .wait :: rest → s.inFlight ≠ none → hostCycle s = .next { s with rdata := some s.statusWord }))
  ∧ ∀ (s : State) (w : Nat), w < 2 ^ 32 →
      s.withFetchWord 32 w = { s with inFlight := some ⟨BitVec.ofNat 32 w, 0⟩ }
      ∧ ∀ i, decodeTableWord 32 w = some i ↔ decode (BitVec.ofNat 32 w) = .ok i

/-- A command issued with `n` further cycles to take completes in the step after them, whatever the word, while the host
does nothing: every command terminates (70_reset_and_hazards.md R336; counting the cycles is the model's, log 2). -/
def Obligations.CommandCompletesAfterItsLatency : Prop :=
  ∀ (n : Nat) (s : State) (w : Word), s.inFlight = some ⟨w, n⟩ → s.host = [] →
    ∃ t : State, core.run (n + 1) s = .next t ∧ runWord w { s with inFlight := some ⟨w, 0⟩ } = .next t
      ∧ t.inFlight = none ∧ t.status.done = true

/-- Every step keeps the invariant, from every state that meets it. -/
def Obligations.StepKeepsInvariant : Prop :=
  ∀ s t : State, s.Inv → step s = .next t → t.Inv

/-- The state after reset meets the invariant. -/
def Obligations.ResetMeetsInvariant : Prop := State.reset.Inv

/-- A step stops only on a transaction narrower than a word (20_memory.md R80; log 11), never by a fault (log 13). -/
def Obligations.OnlyNarrowTransactionsStop : Prop :=
  ∀ s : State, (∃ t, step s = .next t)
    ∨ ∃ off rest, s.host = .narrow off :: rest ∧ step s = .refused (.narrowAccess off)

/-! ## Completions and errors -/

/-- Every command, from every state, comes to a completion: a success that leaves ERR as it was, or an error that changes
nothing but STATUS (60_exceptions.md R300, R301). -/
def Obligations.EveryCommandCompletes : Prop :=
  ∀ (i : Instr) (s : State), ∃ t, exec i s = .next t ∧ t.inFlight = none ∧ t.status.done = true
    ∧ t.status.lastOp = i.opcode
    ∧ ((t.status.errCode = 0#4 ∧ t.status.err = s.status.err)
      ∨ ∃ e : CmdError, e ≠ .illegal ∧ t = turnedAway i.opcode e.code s)

/-- A command that ends in an error changes STATUS and BUSY only (60_exceptions.md R301). -/
def Obligations.ErrorLeavesNoEffect : Prop :=
  ∀ (i : Instr) (s t : State), exec i s = .next t → t.status.errCode ≠ 0#4 →
    t = { s with
      status := { s.status with errCode := t.status.errCode, lastOp := i.opcode, err := true, done := true }
      inFlight := none }

/-- CORR_PUSH and CORR_SCORE fail with CONFIG on an illegal length before any state changes (41_correlator.md R144). -/
def Obligations.CorrelatorNeedsLegalLength : Prop :=
  ∀ s : State, (s.corr.len.toNat = 0 ∨ 64 < s.corr.len.toNat) →
    exec .corrPush s = .next (turnedAway 0x02#8 2#4 s) ∧ exec .corrScore s = .next (turnedAway 0x03#8 2#4 s)

/-- The framer's pushes: CONFIG first, then PENDING, then RANGE (42_framer.md R162, R171, R172, 60_exceptions.md R303). -/
def Obligations.FramerPushErrorsInOrder : Prop :=
  ∀ (s : State) (b : Bool),
    (¬ legalFramer s.frm →
      exec (.frmPushbit b) s = .next (turnedAway 0x11#8 2#4 s)
      ∧ exec .frmPushrange s = .next (turnedAway 0x12#8 2#4 s))
    ∧ (legalFramer s.frm → s.status.frameReady = true →
      exec (.frmPushbit b) s = .next (turnedAway 0x11#8 3#4 s)
      ∧ exec .frmPushrange s = .next (turnedAway 0x12#8 3#4 s))
    ∧ (legalFramer s.frm → s.status.frameReady = false → ¬ inBm s.arg0 s.arg1 →
      exec .frmPushrange s = .next (turnedAway 0x12#8 4#4 s))

/-- The Viterbi commands' errors in their order: CONFIG, LENGTH, RANGE (43_viterbi.md R191, R197, R198, R203). -/
def Obligations.ViterbiErrorsInOrder : Prop :=
  ∀ s : State,
    (¬ legalGenerators s.vit → exec .vitGentab s = .next (turnedAway 0x30#8 2#4 s))
    ∧ (¬ (legalShape s.vit ∧ legalTable s.vit) →
        exec .vitEncode s = .next (turnedAway 0x31#8 2#4 s)
        ∧ exec .vitDecode s = .next (turnedAway 0x32#8 2#4 s))
    ∧ (legalShape s.vit → legalTable s.vit →
        (s.arg1 % s.vit.kBits ≠ 0 → exec .vitEncode s = .next (turnedAway 0x31#8 5#4 s))
        ∧ (s.arg1 % s.vit.kBits = 0 →
            ¬ (inBm s.arg0 s.arg1 ∧ inBm s.arg2 (s.arg1 / s.vit.kBits * s.vit.nBits)) →
            exec .vitEncode s = .next (turnedAway 0x31#8 4#4 s))
        ∧ (1024 < s.arg1 / s.vit.nBits → exec .vitDecode s = .next (turnedAway 0x32#8 5#4 s))
        ∧ (s.arg1 / s.vit.nBits ≤ 1024 →
            ¬ (inBm s.arg0 s.arg1 ∧ inBm s.arg2 (s.arg1 / s.vit.nBits * s.vit.kBits)) →
            exec .vitDecode s = .next (turnedAway 0x32#8 4#4 s)))

/-- The BCH commands' errors in their order (44_bch.md R221, R231, R234). -/
def Obligations.BchErrorsInOrder : Prop :=
  ∀ s : State,
    ((s.bch.gen = 0 ∨ s.bch.gen = 1 ∨ 2 ^ 63 ≤ s.bch.gen) → exec .bchEncode s = .next (turnedAway 0x40#8 2#4 s))
    ∧ (2 ≤ s.bch.gen → s.bch.gen < 2 ^ 63 →
        (s.arg1 ≠ 63 - s.bch.degree → exec .bchEncode s = .next (turnedAway 0x40#8 5#4 s))
        ∧ (s.arg1 = 63 - s.bch.degree → ¬ (inBm s.arg0 s.arg1 ∧ inBm s.arg2 63) →
            exec .bchEncode s = .next (turnedAway 0x40#8 4#4 s)))
    ∧ (s.bch.t = 0#4 → exec .bchDecode s = .next (turnedAway 0x41#8 2#4 s))
    ∧ (s.bch.t ≠ 0#4 →
        (s.arg1 ≠ 63 → exec .bchDecode s = .next (turnedAway 0x41#8 5#4 s))
        ∧ (s.arg1 = 63 → ¬ (inBm s.arg0 63 ∧ inBm s.arg2 63) →
            exec .bchDecode s = .next (turnedAway 0x41#8 4#4 s)))

/-- The CRC commands' errors in their order (45_crc.md R251, R254). -/
def Obligations.CrcErrorsInOrder : Prop :=
  ∀ (s : State) (i : Instr), i = .crcGen ∨ i = .crcVerify →
    (¬ (1 ≤ s.crc.width ∧ s.crc.width ≤ 32 ∧ s.crc.trial.toNat ≤ 2) →
      exec i s = .next (turnedAway i.opcode 2#4 s))
    ∧ (1 ≤ s.crc.width → s.crc.width ≤ 32 → s.crc.trial.toNat ≤ 2 →
        (1024 < s.arg1 → exec i s = .next (turnedAway i.opcode 5#4 s))
        ∧ (s.arg1 ≤ 1024 → ¬ legalCrc s → exec i s = .next (turnedAway i.opcode 4#4 s)))

/-! ## Bit-vector commands -/

/-- NOP completes and does nothing else (40_bitvector.md R130). -/
def Obligations.NopCompletes : Prop :=
  ∀ s : State, exec .nop s = .next (completed 0x00#8 noResults s)

/-- BV_COPY on valid ranges writes the source as it was to the destination and no other bit, and reports RANGE otherwise
(40_bitvector.md R131). -/
def Obligations.CopyWritesSourceAsItWas : Prop :=
  ∀ s : State,
    (inBm s.arg0 s.arg1 → inBm s.arg2 s.arg1 →
      ∃ m' : Memory,
        exec .bvCopy s = .next (completed 0x20#8 ⟨s.args.arg1, 0#32, 0#32, 0#32⟩ { s with bm := m' })
        ∧ bmRead m' s.arg2 s.arg1 = bmRead s.bm s.arg0 s.arg1
        ∧ onlyBitsWritten s.bm m' s.arg2 s.arg1)
    ∧ (¬ (inBm s.arg0 s.arg1 ∧ inBm s.arg2 s.arg1) → exec .bvCopy s = .next (turnedAway 0x20#8 4#4 s))

/-! ## Correlator -/

/-- CORR_CLEAR clears the symbol buffer, the write pointer and the score, keeps REF, CORR_LEN and CORR_THRESH, and succeeds
whatever CORR_LEN holds (41_correlator.md R145). -/
def Obligations.CorrClearClearsTheBuffer : Prop :=
  ∀ s : State, ∃ c : Corr, exec .corrClear s = .next (completed 0x01#8 noResults { s with corr := c })
    ∧ (∀ j (h : j < 64), c.symbuf[j] = 0#32) ∧ c.wp = 0#6 ∧ c.score = 0#32
    ∧ c.ref = s.corr.ref ∧ c.len = s.corr.len ∧ c.thresh = s.corr.thresh

/-- CORR_PUSH under a legal length (41_correlator.md R146): the slot at WP takes the symbol, WP advances modulo N, the score
of the new window is stored and returned, and SYNC is set on a detection and left as it was otherwise. -/
def Obligations.CorrPushStoresAndScores : Prop :=
  ∀ s : State, 1 ≤ s.corr.len.toNat → s.corr.len.toNat ≤ 64 →
    ∃ c : Corr,
      exec .corrPush s =
        .next (completed 0x02#8
          ⟨c.score, if fgt32 c.score s.corr.thresh then 1#32 else 0#32, c.wp.setWidth 32, 0#32⟩
          { s with
            corr := c
            status := { s.status with sync := s.status.sync || fgt32 c.score s.corr.thresh } })
      ∧ (∀ j (h : j < 64),
          c.symbuf[j] = if j = s.corr.wp.toNat then s.args.arg0 else s.corr.symbuf[j])
      ∧ c.wp.toNat = (s.corr.wp.toNat + 1) % s.corr.len.toNat
      ∧ c.score = c.dot
      ∧ c.ref = s.corr.ref ∧ c.len = s.corr.len ∧ c.thresh = s.corr.thresh

/-- CORR_SCORE under a legal length rescores the window as it stands and never touches SYNC (41_correlator.md R147). -/
def Obligations.CorrScoreRescoresWithoutPushing : Prop :=
  ∀ s : State, 1 ≤ s.corr.len.toNat → s.corr.len.toNat ≤ 64 →
    exec .corrScore s =
      .next (completed 0x03#8
        ⟨s.corr.dot, if fgt32 s.corr.dot s.corr.thresh then 1#32 else 0#32, s.corr.wp.setWidth 32, 0#32⟩
        { s with corr := { s.corr with score := s.corr.dot } })

/-- The window is chronological: a push drops the oldest symbol, moves every other one place towards the old end and puts the
new one at the new end (41_correlator.md R140). `WP < N` is part of the invariant. -/
def Obligations.PushSlidesTheWindow : Prop :=
  ∀ (c : Corr) (x : Word), 1 ≤ c.len.toNat → c.len.toNat ≤ 64 → c.wp.toNat < c.len.toNat →
    (c.push x).window (c.len.toNat - 1) = x
    ∧ ∀ i, i + 1 < c.len.toNat → (c.push x).window i = c.window (i + 1)

/-- With one lane the lane-split score is the score (41_correlator.md R149). -/
def Obligations.OneLaneScoreIsTheScore : Prop :=
  ∀ c : Corr, c.laneDot Config.corrLanes = c.dot

/-- The operands that no rounding is about, and the comparison (41_correlator.md R141, R143). A NaN operand or an invalid
operation gives the canonical quiet NaN, and no operation gives another NaN. An infinity times a value that is no zero is the
infinity of the product's sign; an infinity plus a value that is not the opposite infinity is that infinity. `fgt32` is false
if either value is a NaN and compares the values otherwise, so equal values, both zeros among them, are not greater. -/
def Obligations.NaNResultsAreCanonical : Prop :=
  ∀ a b : Word,
    (0x7F800000 < magnitude a ∨ 0x7F800000 < magnitude b → fmul32 a b = 0x7FC00000#32 ∧ fadd32 a b = 0x7FC00000#32)
    ∧ (magnitude a = 0x7F800000 → magnitude b = 0 → fmul32 a b = 0x7FC00000#32 ∧ fmul32 b a = 0x7FC00000#32)
    ∧ (magnitude a = 0x7F800000 → magnitude b = 0x7F800000 → a.getLsbD 31 ≠ b.getLsbD 31 →
        fadd32 a b = 0x7FC00000#32)
    ∧ (0x7F800000 < magnitude (fmul32 a b) → fmul32 a b = 0x7FC00000#32)
    ∧ (0x7F800000 < magnitude (fadd32 a b) → fadd32 a b = 0x7FC00000#32)
    ∧ (magnitude a = 0x7F800000 → 0 < magnitude b → magnitude b ≤ 0x7F800000 →
        let inf := if a.getLsbD 31 = b.getLsbD 31 then 0x7F800000#32 else 0xFF800000#32
        fmul32 a b = inf ∧ fmul32 b a = inf)
    ∧ (magnitude a = 0x7F800000 → magnitude b ≤ 0x7F800000 →
        (magnitude b = 0x7F800000 → a.getLsbD 31 = b.getLsbD 31) → fadd32 a b = a ∧ fadd32 b a = a)
    ∧ (fgt32 a b = true ↔
        magnitude a ≤ 0x7F800000 ∧ magnitude b ≤ 0x7F800000 ∧ valueUnits b < valueUnits a)

/-- The arithmetic on finite operands is the exact result rounded to nearest, ties to even (41_correlator.md R141). Of the
rounding: no finite magnitude `m` is nearer to `n` units of 2^-298 than the one chosen, of two equally near ones the chosen
one is even, and infinity is chosen exactly from half a unit past the largest finite value on. Of the operations: the
magnitude of a product is the rounded exact product and its sign the XOR of the signs; the magnitude of a sum is the rounded
exact sum and its sign the sum's, an exact zero being negative only if both operands are. -/
def Obligations.RoundingIsToNearestEven : Prop :=
  (∀ n m : Nat, m < 0x7F800000 →
    let value := fun k : Nat => (magnitudeUnits k : Int) * 2 ^ 149
    (f32Round n < 0x7F800000 →
      |(n : Int) - value (f32Round n)| ≤ |(n : Int) - value m|
      ∧ (|(n : Int) - value (f32Round n)| = |(n : Int) - value m| → f32Round n = m ∨ f32Round n % 2 = 0))
    ∧ f32Round n ≤ 0x7F800000
    ∧ (f32Round n = 0x7F800000 ↔ (2 ^ 25 - 1) * 2 ^ 401 ≤ n))
  ∧ ∀ a b : Word, magnitude a < 0x7F800000 → magnitude b < 0x7F800000 →
    let sum := valueUnits a + valueUnits b
    magnitude (fmul32 a b) = f32Round (magnitudeUnits (magnitude a) * magnitudeUnits (magnitude b))
    ∧ (fmul32 a b).getLsbD 31 = (a.getLsbD 31 ^^ b.getLsbD 31)
    ∧ magnitude (fadd32 a b) = f32Round (sum.natAbs * 2 ^ 149)
    ∧ (fadd32 a b).getLsbD 31 = (if sum = 0 then a.getLsbD 31 && b.getLsbD 31 else decide (sum < 0))

/-! ## Framer -/

/-- One received bit enters the history as HIST[0], the counters advance, and the distance counts the places of the last L
bits that differ from the pattern; a match needs L received bits and a distance of at most MAXERR (42_framer.md R163,
R164). -/
def Obligations.MatchComparesTheLastBits : Prop :=
  ∀ (f : Framer) (b : Bool), f.patLen.toNat ≤ 64 →
    let g := f.shiftIn b
    g = { f with bitCount := g.bitCount, hist := g.hist, hfill := g.hfill }
    ∧ g.bitCount.toNat = (f.bitCount.toNat + 1) % 2 ^ 32
    ∧ (∀ j, j < 64 → g.hist.getLsbD j = if j = 0 then b else f.hist.getLsbD (j - 1))
    ∧ g.hfill.toNat = min (f.hfill.toNat + 1) 64
    ∧ g.distance =
        ((List.range f.patLen.toNat).filter fun j =>
          g.hist.getLsbD j != (if j < 32 then f.patLo.getLsbD j else f.patHi.getLsbD (j - 32))).length
    ∧ (g.isMatch = true ↔ f.patLen.toNat ≤ g.hfill.toNat ∧ g.distance ≤ f.maxErr.toNat)

/-- FRM_PUSHBIT while SEARCHING: a match starts a capture at this bit, holding the received window when sync bits are
included; no match changes nothing but history and counters (42_framer.md R163, R165, R170). -/
def Obligations.PushBitWhileSearching : Prop :=
  ∀ (s : State) (b : Bool), legalFramer s.frm → s.status.frameReady = false → s.frm.fstate = .searching →
    let g := s.frm.shiftIn b
    (g.isMatch = false →
      exec (.frmPushbit b) s =
        .next (completed 0x11#8 ⟨1#32, 0#32, BitVec.ofNat 32 g.distance, 0#32⟩ { s with frm := g }))
    ∧ (g.isMatch = true →
      ∃ f : Framer,
        exec (.frmPushbit b) s =
          .next (completed 0x11#8 ⟨1#32, 1#32, BitVec.ofNat 32 g.distance, 0#32⟩ { s with frm := f })
        ∧ f = { g with fstate := .capturing, tsPend := g.bitCount, cap := f.cap, cc := f.cc }
        ∧ f.cc.toNat = (if s.frm.incSync then s.frm.patLen.toNat else 0)
        ∧ (List.range f.cc.toNat).map (fun i => f.cap.getLsbD i)
            = (if s.frm.incSync then receivedWindow g else []))

/-- FRM_PUSHBIT while CAPTURING, the frame not yet complete: with PREEMPT a match restarts the capture at this bit; without a
match, or without PREEMPT, the bit is appended (42_framer.md R163, R166). -/
def Obligations.PushBitWhileCapturing : Prop :=
  ∀ (s : State) (b : Bool), legalFramer s.frm → s.status.frameReady = false → s.frm.fstate = .capturing →
    s.frm.cc.toNat < s.frm.total →
    let g := s.frm.shiftIn b
    (s.frm.preempt = true → g.isMatch = true →
      ∃ f : Framer,
        exec (.frmPushbit b) s =
          .next (completed 0x11#8 ⟨1#32, 5#32, BitVec.ofNat 32 g.distance, 0#32⟩ { s with frm := f })
        ∧ f = { g with tsPend := g.bitCount, cap := f.cap, cc := f.cc }
        ∧ f.cc.toNat = (if s.frm.incSync then s.frm.patLen.toNat else 0)
        ∧ (List.range f.cc.toNat).map (fun i => f.cap.getLsbD i)
            = (if s.frm.incSync then receivedWindow g else []))
    ∧ (s.frm.preempt = false ∨ g.isMatch = false → s.frm.cc.toNat + 1 ≠ s.frm.total →
      ∃ f : Framer,
        exec (.frmPushbit b) s =
          .next (completed 0x11#8 ⟨1#32, 0#32, BitVec.ofNat 32 g.distance, 0#32⟩ { s with frm := f })
        ∧ f = { g with cap := f.cap, cc := f.cc }
        ∧ f.cc.toNat = s.frm.cc.toNat + 1
        ∧ ∀ j, j < 4096 → f.cap.getLsbD j = if j = s.frm.cc.toNat then b else s.frm.cap.getLsbD j)

/-- FRM_PUSHBIT with the bit that completes the frame: it is dispatched into BM at FRM_DST, FRAME_READY rises, the framer is
SEARCHING again (42_framer.md R163, R167, R168). -/
def Obligations.CompletingBitDispatchesTheFrame : Prop :=
  ∀ (s : State) (b : Bool), legalFramer s.frm → s.status.frameReady = false → s.frm.fstate = .capturing →
    s.frm.cc.toNat + 1 = s.frm.total →
    let g := s.frm.shiftIn b
    s.frm.preempt = false ∨ g.isMatch = false →
    ∃ (f : Framer) (m' : Memory),
      exec (.frmPushbit b) s =
        .next (completed 0x11#8 ⟨1#32, 2#32, BitVec.ofNat 32 g.distance, 0#32⟩
          { s with frm := f, bm := m', status := { s.status with frameReady := true } })
      ∧ f = { g with
          cap := f.cap, cc := 0#13, fstate := .searching, frameTs := s.frm.tsPend, framePatId := s.frm.patId
          frameLen := f.frameLen }
      ∧ f.frameLen.toNat = s.frm.total
      ∧ bmRead m' s.frm.dst.toNat s.frm.total
          = (List.range s.frm.cc.toNat).map (fun i => s.frm.cap.getLsbD i) ++ [b]
      ∧ onlyBitsWritten s.bm m' s.frm.dst.toNat s.frm.total

/-- FRM_PUSHRANGE is the bits of BM pushed one by one until the count is exhausted or right after a dispatch; it reports how
many it consumed, the union of their events and the last distance (42_framer.md R172). -/
def Obligations.PushRangeIsBitByBit : Prop :=
  ∀ s : State, legalFramer s.frm → s.status.frameReady = false → inBm s.arg0 s.arg1 →
    ∃ k, k ≤ s.arg1 ∧
      let r := pushAll s (bmRead s.bm s.arg0 k)
      exec .frmPushrange s =
        .next (completed 0x12#8
          ⟨BitVec.ofNat 32 k, BitVec.ofNat 32 r.events.mask, BitVec.ofNat 32 r.dist, 0#32⟩ r.state)
      ∧ (k = s.arg1 ∨ r.state.status.frameReady = true)
      ∧ ∀ j, j < k → (pushAll s (bmRead s.bm s.arg0 j)).state.status.frameReady = false

/-- The framer's property without preemption (42_framer.md R161, R163 to R168): from SEARCHING, the bit that completes a sync
match and the FL bits after it give one frame, the window when sync bits are included followed by those bits, and the framer
is SEARCHING again. -/
def Obligations.BitsAfterSyncAreTheFrame : Prop :=
  ∀ (s : State) (b : Bool) (bs : Bits),
    legalFramer s.frm → s.status.frameReady = false → s.frm.fstate = .searching → s.frm.preempt = false →
    (s.frm.shiftIn b).isMatch = true → bs.length = s.frm.flen.toNat →
    let t := (pushAll s (b :: bs)).state
    t.status.frameReady = true ∧ t.frm.fstate = .searching ∧ t.frm.cc = 0#13
    ∧ bmRead t.bm s.frm.dst.toNat s.frm.total
        = (if s.frm.incSync then receivedWindow (s.frm.shiftIn b) else []) ++ bs
    ∧ onlyBitsWritten s.bm t.bm s.frm.dst.toNat s.frm.total
    ∧ t.frm.frameLen.toNat = s.frm.total ∧ t.frm.framePatId = s.frm.patId
    ∧ t.frm.frameTs = s.frm.bitCount + 1#32

/-- FRM_RESET forces SEARCHING and discards the partial frame, while history, counters and a pending frame stay
(42_framer.md R174); FRM_ACK clears FRAME_READY and nothing else (R175). -/
def Obligations.FrmResetAndAckDoOnlyThat : Prop :=
  ∀ s : State,
    exec .frmReset s =
      .next (completed 0x10#8 noResults
        { s with frm := { s.frm with fstate := .searching, cc := 0#13, cap := 0#4096, tsPend := 0#32 } })
    ∧ exec .frmAck s =
      .next (completed 0x13#8 noResults { s with status := { s.status with frameReady := false } })

/-! ## Viterbi -/

/-- VIT_GENTAB writes the entries of the generator-polynomial trellis and no others (43_viterbi.md R194, R195). -/
def Obligations.GentabWritesTheGeneratorTrellis : Prop :=
  ∀ s : State, legalGenerators s.vit →
    ∃ v : Vit,
      exec .vitGentab s =
        .next (completed 0x30#8 ⟨BitVec.ofNat 32 (2 * 2 ^ s.vit.m.toNat), 0#32, 0#32, 0#32⟩ { s with vit := v })
      ∧ v = { s.vit with tab := v.tab }
      ∧ (∀ st u, st < 2 ^ s.vit.m.toNat → u < 2 →
          let taps := fun g : BitVec 7 =>
            ((List.range (s.vit.m.toNat + 1)).filter fun j =>
              (u * 2 ^ s.vit.m.toNat + st).testBit j && g.getLsbD j).length % 2
          v.next st u = u * 2 ^ (s.vit.m.toNat - 1) + st / 2
          ∧ v.out st u = 2 * taps s.vit.g0 + taps s.vit.g1)
      ∧ ∀ e (h : e < 512), (2 ^ s.vit.m.toNat ≤ e / 8 ∨ 2 ≤ e % 8) → v.tab[e] = s.vit.tab[e]

/-- In a generator trellis every state has exactly two predecessor edges (43_viterbi.md R194). -/
def Obligations.GeneratorTrellisHasTwoPredecessors : Prop :=
  ∀ s t : State, legalGenerators s.vit → exec .vitGentab s = .next t →
    ∀ s2, s2 < 2 ^ s.vit.m.toNat →
      (t.vit.edges.filter fun e => t.vit.next e.1 e.2 == s2).length = 2

/-- VIT_ENCODE walks the trellis from state 0 and writes each step's coded bits, MSB first (43_viterbi.md R192, R193, R196,
R197). -/
def Obligations.EncodeWalksTheTrellis : Prop :=
  ∀ s : State, legalShape s.vit → legalTable s.vit → s.arg1 % s.vit.kBits = 0 → inBm s.arg0 s.arg1 →
    inBm s.arg2 (s.arg1 / s.vit.kBits * s.vit.nBits) →
    ∃ (st : Nat → Nat) (m' : Memory),
      let steps := s.arg1 / s.vit.kBits
      let u := fun j => num (bmRead s.bm (s.arg0 + j * s.vit.kBits) s.vit.kBits)
      st 0 = 0
      ∧ (∀ j, j < steps →
          st (j + 1) = s.vit.next (st j) (u j)
          ∧ bmRead m' (s.arg2 + j * s.vit.nBits) s.vit.nBits = bitsOf s.vit.nBits (s.vit.out (st j) (u j)))
      ∧ exec .vitEncode s =
          .next (completed 0x31#8
            ⟨BitVec.ofNat 32 (steps * s.vit.nBits), BitVec.ofNat 32 (st steps), BitVec.ofNat 32 steps, 0#32⟩
            { s with bm := m' })
      ∧ onlyBitsWritten s.bm m' s.arg2 (steps * s.vit.nBits)

/-- VIT_DECODE gives a best information sequence: its error count is the number of received coded bits that disagree with
the re-encoded decoded sequence, plus the truncated bits; no information sequence disagrees in fewer, and none that disagrees
in as few ends in a lower state; of those that end in the same state the decoded one has, at the last step at which they
differ, the lower predecessor state or, from one predecessor, the lower input; the reported state is the one the re-encoding
ends in; the count is added to CCNT (43_viterbi.md R198 to R203). -/
def Obligations.DecodeFindsANearestSequence : Prop :=
  ∀ s : State, legalShape s.vit → legalTable s.vit → s.arg1 / s.vit.nBits ≤ 1024 → inBm s.arg0 s.arg1 →
    inBm s.arg2 (s.arg1 / s.vit.nBits * s.vit.kBits) →
    ∃ m' : Memory,
      let steps := s.arg1 / s.vit.nBits
      let received := (bmRead s.bm s.arg0 s.arg1).take (steps * s.vit.nBits)
      let dec := bmRead m' s.arg2 (steps * s.vit.kBits)
      let ec := hd (s.vit.enc dec).code received + s.arg1 % s.vit.nBits
      exec .vitDecode s =
        .next (completed 0x32#8
          ⟨BitVec.ofNat 32 (steps * s.vit.kBits), BitVec.ofNat 32 ec, BitVec.ofNat 32 (s.vit.enc dec).state,
            BitVec.ofNat 32 (s.arg1 % s.vit.nBits)⟩
          { s with bm := m', ccnt := saturated s.ccnt ec })
      ∧ onlyBitsWritten s.bm m' s.arg2 (steps * s.vit.kBits)
      ∧ ∀ info : Bits, info.length = steps * s.vit.kBits →
          hd (s.vit.enc dec).code received ≤ hd (s.vit.enc info).code received
          ∧ (hd (s.vit.enc dec).code received = hd (s.vit.enc info).code received →
              (s.vit.enc dec).state ≤ (s.vit.enc info).state
              ∧ ((s.vit.enc dec).state = (s.vit.enc info).state →
                  ∀ j, j < steps →
                    (∀ k, j < k → k < steps → s.vit.edgeAt dec k = s.vit.edgeAt info k) →
                    let e := s.vit.edgeAt dec j
                    let e' := s.vit.edgeAt info j
                    e.1 < e'.1 ∨ (e.1 = e'.1 ∧ e.2 ≤ e'.2)))

/-- A clean codeword decodes to its information with error count 0 when the code is injective from state 0
(43_viterbi.md R204). -/
def Obligations.CleanCodewordDecodesToItsInformation : Prop :=
  ∀ (s : State) (info : Bits), legalShape s.vit → legalTable s.vit → s.arg1 / s.vit.nBits ≤ 1024 →
    s.arg1 % s.vit.nBits = 0 → inBm s.arg0 s.arg1 → inBm s.arg2 (s.arg1 / s.vit.nBits * s.vit.kBits) →
    info.length = s.arg1 / s.vit.nBits * s.vit.kBits → bmRead s.bm s.arg0 s.arg1 = (s.vit.enc info).code →
    (∀ other : Bits, other.length = info.length → (s.vit.enc other).code = (s.vit.enc info).code → other = info) →
    ∃ t, exec .vitDecode s = .next t ∧ t.status.errCode = 0#4
      ∧ bmRead t.bm s.arg2 info.length = info ∧ t.res.res1 = 0#32 ∧ t.ccnt = s.ccnt

/-- A generator code whose two generators both tap the current input is injective from state 0 (43_viterbi.md R204). -/
def Obligations.GeneratorCodeIsInjective : Prop :=
  ∀ s t : State, legalGenerators s.vit → s.vit.g0.getLsbD s.vit.m.toNat = true →
    s.vit.g1.getLsbD s.vit.m.toNat = true → exec .vitGentab s = .next t →
    ∀ x y : Bits, x.length = y.length → (t.vit.enc x).code = (t.vit.enc y).code → x = y

/-! ## BCH -/

/-- BCH_ENCODE is systematic and gives a multiple of GEN (44_bch.md R230, R231). -/
def Obligations.BchEncodeIsSystematicAndDivisible : Prop :=
  ∀ s : State, 2 ≤ s.bch.gen → s.bch.gen < 2 ^ 63 → s.arg1 = 63 - s.bch.degree → inBm s.arg0 s.arg1 →
    inBm s.arg2 63 →
    ∃ (m' : Memory) (q : Nat),
      exec .bchEncode s =
        .next (completed 0x40#8
          ⟨63#32, BitVec.ofNat 32 (63 - s.bch.degree), BitVec.ofNat 32 s.bch.degree, 0#32⟩ { s with bm := m' })
      ∧ bmRead m' s.arg2 (63 - s.bch.degree) = bmRead s.bm s.arg0 (63 - s.bch.degree)
      ∧ num (bmRead m' s.arg2 63) = gf2Mul q s.bch.gen
      ∧ onlyBitsWritten s.bm m' s.arg2 63

/-- BCH_DECODE answers what `bchdec` decides of the received word (44_bch.md R227, R234), and what each outcome guarantees:
PASSED exactly when all syndromes vanish; CORRECTED writes a word of vanishing syndromes that differs from the received one
in exactly the reported number of bits, at most t; FAILED writes the received word. -/
def Obligations.BchDecodeOutcomes : Prop :=
  ∀ s : State, s.bch.t ≠ 0#4 → s.arg1 = 63 → inBm s.arg0 63 → inBm s.arg2 63 →
    ∃ m' : Memory,
      let r := bmRead s.bm s.arg0 63
      let c := bmRead m' s.arg2 63
      let t := s.bch.t.toNat
      let d := bchdec r t
      exec .bchDecode s =
        .next (completed 0x41#8 ⟨d.outcome.code, BitVec.ofNat 32 d.count, BitVec.ofNat 32 d.len, 0#32⟩
          { s with bm := m', ccnt := saturated s.ccnt d.count })
      ∧ c = d.word
      ∧ onlyBitsWritten s.bm m' s.arg2 63
      ∧ ((d.outcome = .passed ∧ d.outcome.code = 0#32 ∧ d.count = 0 ∧ d.len = 0 ∧ c = r ∧ noSyndrome t r)
        ∨ (d.outcome = .corrected ∧ d.outcome.code = 1#32 ∧ 1 ≤ d.count ∧ d.count ≤ t ∧ d.len = d.count
            ∧ hd c r = d.count ∧ noSyndrome t c ∧ ¬ noSyndrome t r)
        ∨ (d.outcome = .failed ∧ d.outcome.code = 2#32 ∧ d.count = 0 ∧ c = r ∧ ¬ noSyndrome t r))

/-- A word at distance one from a word of vanishing syndromes is corrected to it, for every t and every position, by the
decision function and by the command (44_bch.md R229, its case of weight 1, R234). -/
def Obligations.SingleErrorIsCorrected : Prop :=
  (∀ (c : Bits) (t i : Nat), c.length = 63 → 1 ≤ t → t ≤ 15 → i < 63 → noSyndrome t c →
    bchdec (flipAt c i) t = ⟨.corrected, c, 1, 1⟩)
  ∧ ∀ (s : State) (c : Bits) (i : Nat), s.bch.t ≠ 0#4 → s.arg1 = 63 → inBm s.arg0 63 → inBm s.arg2 63 →
    c.length = 63 → i < 63 → noSyndrome s.bch.t.toNat c → bmRead s.bm s.arg0 63 = flipAt c i →
    ∃ m' : Memory,
      exec .bchDecode s =
        .next (completed 0x41#8 ⟨1#32, 1#32, 1#32, 0#32⟩ { s with bm := m', ccnt := saturated s.ccnt 1 })
      ∧ bmRead m' s.arg2 63 = c ∧ onlyBitsWritten s.bm m' s.arg2 63

/-! ## CRC -/

/-- CRC_GEN stores the checksum in the field, MSB first; the checksum without its output XOR is the remainder of
`I·x^D + b·x^W` by `x^W + P` (45_crc.md R252, R253, R256). -/
def Obligations.CrcGenStoresTheRemainder : Prop :=
  ∀ s : State, legalCrc s →
    ∃ (m' : Memory) (v q : Nat),
      exec .crcGen s =
        .next (completed 0x50#8 ⟨BitVec.ofNat 32 v, s.args.arg1, 0#32, 0#32⟩ { s with bm := m' })
      ∧ num (bmRead m' s.arg2 s.crc.width) = v
      ∧ (s.crc.initW * 2 ^ s.arg1) ^^^ (num (bmRead s.bm s.arg0 s.arg1) * 2 ^ s.crc.width)
          = gf2Mul q (2 ^ s.crc.width + s.crc.polyW) ^^^ (v ^^^ s.crc.xorW)
      ∧ v ^^^ s.crc.xorW < 2 ^ s.crc.width
      ∧ onlyBitsWritten s.bm m' s.arg2 s.crc.width

/-- CRC_VERIFY (45_crc.md R258, R264): PASSED writes nothing; a single flip corrects when it is the only passing one, a pair
when no single passes, TRIAL is 2 and it is the only passing pair; otherwise FAILED, which writes nothing. -/
def Obligations.CrcVerifyDecides : Prop :=
  ∀ s : State, legalCrc s →
    let z := bmRead s.bm s.arg0 s.arg1 ++ bmRead s.bm s.arg2 s.crc.width
    let len := s.arg1 + s.crc.width
    let pass := fun y : Bits => s.crc.checksum (y.take s.arg1) = num (y.drop s.arg1)
    let stored := fun (m' : Memory) (y : Bits) =>
      bmRead m' s.arg0 s.arg1 ++ bmRead m' s.arg2 s.crc.width = y
      ∧ onlyTwoRangesWritten s.bm m' s.arg0 s.arg1 s.arg2 s.crc.width
    let noSingle := ∀ p, p < len → ¬ pass (flipAt z p)
    ∃ (m' : Memory) (oc : DecodeOutcome) (cnt : Nat) (r2 r3 : Word),
      exec .crcVerify s =
        .next (completed 0x51#8 ⟨oc.code, BitVec.ofNat 32 cnt, r2, r3⟩
          { s with bm := m', ccnt := saturated s.ccnt cnt })
      ∧ ((oc = .passed ∧ cnt = 0 ∧ r2 = noPosition ∧ r3 = noPosition ∧ m' = s.bm ∧ pass z)
        ∨ (oc = .corrected ∧ cnt = 1 ∧ r3 = noPosition ∧ ¬ pass z ∧ 1 ≤ s.crc.trial.toNat
            ∧ ∃ p, p < len ∧ r2 = BitVec.ofNat 32 p ∧ pass (flipAt z p)
              ∧ (∀ p', p' < len → pass (flipAt z p') → p' = p) ∧ stored m' (flipAt z p))
        ∨ (oc = .corrected ∧ cnt = 2 ∧ ¬ pass z ∧ s.crc.trial.toNat = 2 ∧ noSingle
            ∧ ∃ p q, p < q ∧ q < len ∧ r2 = BitVec.ofNat 32 p ∧ r3 = BitVec.ofNat 32 q
              ∧ pass (flipAt (flipAt z p) q)
              ∧ (∀ p' q', p' < q' → q' < len → pass (flipAt (flipAt z p') q') → p' = p ∧ q' = q)
              ∧ stored m' (flipAt (flipAt z p) q))
        ∨ (oc = .failed ∧ cnt = 0 ∧ r2 = noPosition ∧ r3 = noPosition ∧ m' = s.bm ∧ ¬ pass z
            ∧ (s.crc.trial.toNat = 0
              ∨ (∃ p q, p < q ∧ q < len ∧ pass (flipAt z p) ∧ pass (flipAt z q))
              ∨ (noSingle ∧ s.crc.trial.toNat = 1)
              ∨ (noSingle ∧ ¬ ∃ p q, p < q ∧ q < len ∧ pass (flipAt (flipAt z p) q)
                  ∧ ∀ p' q', p' < q' → q' < len → pass (flipAt (flipAt z p') q') → p' = p ∧ q' = q))))

/-- The checksum is linear: a candidate passes exactly when the contributions of its positions make up the difference between
checksum and field (45_crc.md R260). -/
def Obligations.CrcCandidatesAreLinear : Prop :=
  ∀ (c : Crc) (data field : Bits), 1 ≤ c.width → c.width ≤ 32 → field.length = c.width →
    let d := data.length
    let diff := c.checksum data ^^^ num field
    ∀ p, p < d + c.width →
      (c.passesZ d (flipAt (data ++ field) p) = true ↔ diff = crcContribution c d p)
      ∧ ∀ q, p < q → q < d + c.width →
          (c.passesZ d (flipAt (flipAt (data ++ field) p) q) = true
            ↔ diff = crcContribution c d p ^^^ crcContribution c d q)

/-- A field stored by CRC_GEN passes CRC_VERIFY with the same operands, which then writes nothing. -/
def Obligations.GeneratedFieldVerifies : Prop :=
  ∀ s : State, legalCrc s →
    ∃ t, exec .crcGen s = .next t
      ∧ exec .crcVerify t = .next (completed 0x51#8 ⟨0#32, 0#32, 0xFFFFFFFF#32, 0xFFFFFFFF#32⟩ t)

/-! ## What commands leave alone -/

/-- The corrected bit count never decreases under a command, and only the three decoders change it (10_state.md R36). -/
def Obligations.CorrectedCountIsMonotonic : Prop :=
  ∀ (i : Instr) (s t : State), exec i s = .next t →
    s.ccnt.toNat ≤ t.ccnt.toNat
    ∧ (i ≠ .vitDecode → i ≠ .bchDecode → i ≠ .crcVerify → t.ccnt = s.ccnt)

/-- No command writes an operand register, an interrupt enable, BUSYERR or a configuration register, nor touches the host's
side (10_state.md R35). -/
def Obligations.CommandsKeepOperandsAndConfiguration : Prop :=
  ∀ (i : Instr) (s t : State), exec i s = .next t →
    t.args = s.args ∧ t.ctrl = s.ctrl ∧ t.status.busyErr = s.status.busyErr ∧ t.bch = s.bch ∧ t.crc = s.crc
    ∧ t.host = s.host ∧ t.rdata = s.rdata ∧ t.draws = s.draws
    ∧ t.corr = { t.corr with len := s.corr.len, thresh := s.corr.thresh, ref := s.corr.ref }
    ∧ t.vit = { s.vit with tab := t.vit.tab }
    ∧ t.frm = { t.frm with
        patLo := s.frm.patLo, patHi := s.frm.patHi, patLen := s.frm.patLen, maxErr := s.frm.maxErr
        preempt := s.frm.preempt, incSync := s.frm.incSync, patId := s.frm.patId, flen := s.frm.flen
        dst := s.frm.dst }

/-- Each unit's state changes only under its own commands; BM changes under none of the commands that store nothing; SYNC
changes only under CORR_PUSH; a pending frame is released only by FRM_ACK. -/
def Obligations.UnitsChangeOnlyUnderTheirCommands : Prop :=
  ∀ (i : Instr) (s t : State), exec i s = .next t →
    (i ≠ .corrClear → i ≠ .corrPush → i ≠ .corrScore → t.corr = s.corr)
    ∧ (i ≠ .corrPush → t.status.sync = s.status.sync)
    ∧ (i ≠ .frmReset → i ≠ .frmPushrange → (∀ b, i ≠ .frmPushbit b) → t.frm = s.frm)
    ∧ (i ≠ .vitGentab → t.vit = s.vit)
    ∧ (i = .nop ∨ i = .corrClear ∨ i = .corrPush ∨ i = .corrScore ∨ i = .frmReset ∨ i = .frmAck ∨ i = .vitGentab →
        ∀ a, Memory.read t.bm a = Memory.read s.bm a)
    ∧ (s.status.frameReady = true → t.status.frameReady = false → i = .frmAck)

/-! ## The host window -/

/-- A host read of STATUS, busy or not, returns its fields at the positions of 10_state.md R33, with IRQ the level of
60_exceptions.md R310. -/
def Obligations.StatusReadsItsFields : Prop :=
  ∀ (s : State) (off : BitVec 12), off.toNat / 4 = 2 →
    ∃ w : Word, (s.hostRead off).rdata = some w
    ∧ w = s.statusWord
    ∧ (s.inFlight = none → w.getLsbD 0 = false) ∧ (∀ c, s.inFlight = some c → w.getLsbD 0 = true)
    ∧ w.getLsbD 1 = s.status.done ∧ w.getLsbD 2 = s.status.err ∧ w.getLsbD 3 = s.status.busyErr
    ∧ w.getLsbD 4 = s.status.frameReady ∧ w.getLsbD 5 = s.status.sync
    ∧ w.getLsbD 6 = decide (s.frm.fstate = .capturing)
    ∧ w.getLsbD 7 =
        ((s.ctrl.ieDone && s.status.done) || (s.ctrl.ieErr && (s.status.err || s.status.busyErr))
          || (s.ctrl.ieFrame && s.status.frameReady) || (s.ctrl.ieSync && s.status.sync))
    ∧ w.extractLsb' 8 4 = s.status.errCode ∧ w.extractLsb' 12 4 = 0#4
    ∧ w.extractLsb' 16 8 = s.status.lastOp ∧ w.extractLsb' 24 8 = 0#8

/-- A write to STATUS changes only the W1C bits whose written value is 1, busy or not (10_state.md R33,
70_reset_and_hazards.md R337). -/
def Obligations.StatusWriteClearsWrittenOnes : Prop :=
  ∀ (s : State) (v : Word),
    s.hostWrite 0x008#12 v =
      { s with
        status := { s.status with
          done := s.status.done && !v.getLsbD 1
          err := s.status.err && !v.getLsbD 2
          busyErr := s.status.busyErr && !v.getLsbD 3
          sync := s.status.sync && !v.getLsbD 5 } }

/-- The BUSY hazard (70_reset_and_hazards.md R337): a write to any offset but CTRL and STATUS is dropped and sets BUSYERR,
those two are performed, and a read of ID, CTRL or STATUS returns its current value. -/
def Obligations.BusyDropsHostWrites : Prop :=
  ∀ (s : State) (off : BitVec 12) (v : Word), s.inFlight ≠ none →
    (off.toNat / 4 ≠ 1 → off.toNat / 4 ≠ 2 →
      s.hostWrite off v = { s with status := { s.status with busyErr := true } })
    ∧ (off.toNat / 4 = 1 → s.hostWrite off v = s.writeCtrl v)
    ∧ (off.toNat / 4 = 1 → v.getLsbD 0 = false →
        s.hostWrite off v = { s with ctrl := ⟨v.getLsbD 1, v.getLsbD 2, v.getLsbD 3, v.getLsbD 4⟩ })
    ∧ (off.toNat / 4 = 2 → s.hostWrite off v = s.writeStatus v)
    ∧ (off.toNat / 4 = 0 → (s.hostRead off).rdata = some 0x42524331#32)
    ∧ (off.toNat / 4 = 1 → (s.hostRead off).rdata = some s.ctrlWord)
    ∧ (off.toNat / 4 = 2 → (s.hostRead off).rdata = some s.statusWord)

/-- No read has a side effect on the block, busy or not (20_memory.md R90). -/
def Obligations.ReadsHaveNoSideEffect : Prop :=
  ∀ (s : State) (off : BitVec 12), ∃ (d : Word) (k : Nat), s.hostRead off = { s with rdata := some d, draws := k }

/-- A CTRL write with SRST puts the block in the reset state whatever the other bits are, also during BUSY
(70_reset_and_hazards.md R331), and so does the platform's reset input, in whatever cycle it arrives (R330; that it is a
transaction of the host's list is the model's, log 21). That the host's transactions to come, the word it last read and the
count of free values stay is the model's too (log 7): they are no state of the block. -/
def Obligations.SoftResetRestoresTheResetState : Prop :=
  (∀ (s : State) (off : BitVec 12) (v : Word), off.toNat / 4 = 1 → v.getLsbD 0 = true →
    s.hostWrite off v = { State.reset with host := s.host, rdata := s.rdata, draws := s.draws })
  ∧ ∀ (s : State) (rest : List HostOp), s.host = .hardReset :: rest →
    step s = .next { State.reset with host := rest, rdata := s.rdata, draws := s.draws }

/-- What every offset of the window reads after reset (70_reset_and_hazards.md R330). -/
def Obligations.ResetReadsEveryOffset : Prop :=
  ∀ off : BitVec 12,
    (State.reset.hostRead off).rdata =
      some (if off.toNat / 4 = 0x000 / 4 then 0x42524331#32
        else if off.toNat / 4 = 0x044 / 4 then 0x7F800000#32
        else if off.toNat / 4 = 0x0C0 / 4 then 0x0000000B#32
        else if off.toNat / 4 = 0x0C4 / 4 then 0x0BDD3B2B#32
        else if off.toNat / 4 = 0x0C8 / 4 then 0x0000CD93#32
        else 0#32)

/-- A host read of a BM word while idle returns its 32 bits as the commands see them, lowest bit address most significant; a
host write of a BM word replaces its 32 bits in that order, changes no other bit, and reads back (20_memory.md R83). -/
def Obligations.BmWordsAreMsbFirst : Prop :=
  ∀ (s : State) (w : Nat) (v : Word), w < 256 → s.inFlight = none →
    let off := BitVec.ofNat 12 (0x400 + 4 * w)
    let t := s.hostWrite off v
    (∃ x : Word, (s.hostRead off).rdata = some x ∧ ∀ j, j < 32 → x.getLsbD (31 - j) = bmBit s.bm (32 * w + j))
    ∧ t = { s with bm := t.bm }
    ∧ (∀ j, j < 32 → bmBit t.bm (32 * w + j) = v.getLsbD (31 - j))
    ∧ (∀ x, x / 32 ≠ w → bmBit t.bm x = bmBit s.bm x)
    ∧ (t.hostRead off).rdata = some v

/-- A read-write register reads back what was written to its defined fields, a reserved field reads 0 (10_state.md R61 and
the register's own rule), and a write to an operand, CCNT, CTRL, CORR_THRESH, REF, Viterbi, VITTAB, BCH or CRC register
changes that register alone (R62: no other write has a side effect). CCNT and VITTAB, which commands change too, read as they
are (R36, R53). -/
def Obligations.RegistersReadBackTheirFields : Prop :=
  ∀ (s : State) (v : Word), s.inFlight = none →
    (∀ p ∈ ([(0x010#12, 0xFFFFFFFF#32), (0x014#12, 0xFFFFFFFF#32), (0x018#12, 0xFFFFFFFF#32), (0x030#12, 0xFFFFFFFF#32),
        (0x040#12, 0x0000007F#32), (0x044#12, 0xFFFFFFFF#32), (0x060#12, 0xFFFFFFFF#32), (0x064#12, 0xFFFFFFFF#32),
        (0x068#12, 0xFF033F7F#32), (0x06C#12, 0x00001FFF#32), (0x070#12, 0xFFFFFFFF#32), (0x0A0#12, 0x00000777#32),
        (0x0A4#12, 0x0000007F#32), (0x0A8#12, 0x0000007F#32), (0x0C0#12, 0x0000000F#32), (0x0C4#12, 0xFFFFFFFF#32),
        (0x0C8#12, 0xFFFFFFFF#32), (0x0E0#12, 0x0000033F#32), (0x0E4#12, 0xFFFFFFFF#32), (0x0E8#12, 0xFFFFFFFF#32),
        (0x0EC#12, 0xFFFFFFFF#32)] : List (BitVec 12 × Word)),
      ((s.hostWrite p.1 v).hostRead p.1).rdata = some (v &&& p.2))
    ∧ (v.getLsbD 0 = false →
        ((s.hostWrite 0x004#12 v).hostRead 0x004#12).rdata = some (v &&& 0x0000001E#32)
        ∧ s.hostWrite 0x004#12 v =
            { s with ctrl := ⟨v.getLsbD 1, v.getLsbD 2, v.getLsbD 3, v.getLsbD 4⟩ })
    ∧ (∀ i (h : i < 64),
        let off := BitVec.ofNat 12 (0x200 + 4 * i)
        ((s.hostWrite off v).hostRead off).rdata = some v
        ∧ s.hostWrite off v = { s with corr := { s.corr with ref := s.corr.ref.set i v h } })
    ∧ (∀ e (h : e < 512),
        let off := BitVec.ofNat 12 (0x800 + 4 * e)
        ((s.hostWrite off v).hostRead off).rdata = some (v &&& 0x00000F3F#32)
        ∧ s.hostWrite off v =
            { s with vit := { s.vit with tab := s.vit.tab.set e ⟨v.extractLsb' 0 6, v.extractLsb' 8 4⟩ h } })
    ∧ (s.hostRead 0x030#12).rdata = some s.ccnt
    ∧ (∀ e (_ : e < 512), ∃ x : Word,
        (s.hostRead (BitVec.ofNat 12 (0x800 + 4 * e))).rdata = some x
        ∧ x.extractLsb' 0 6 = s.vit.tab[e].next ∧ x.extractLsb' 8 4 = s.vit.tab[e].out ∧ x &&& 0xFFFFF0C0#32 = 0#32)
    ∧ s.hostWrite 0x010#12 v = { s with args := { s.args with arg0 := v } }
    ∧ s.hostWrite 0x014#12 v = { s with args := { s.args with arg1 := v } }
    ∧ s.hostWrite 0x018#12 v = { s with args := { s.args with arg2 := v } }
    ∧ s.hostWrite 0x030#12 v = { s with ccnt := v }
    ∧ s.hostWrite 0x044#12 v = { s with corr := { s.corr with thresh := v } }
    ∧ s.hostWrite 0x0A0#12 v =
        { s with vit := { s.vit with k := v.extractLsb' 0 3, n := v.extractLsb' 4 3, m := v.extractLsb' 8 3 } }
    ∧ s.hostWrite 0x0A4#12 v = { s with vit := { s.vit with g0 := v.extractLsb' 0 7 } }
    ∧ s.hostWrite 0x0A8#12 v = { s with vit := { s.vit with g1 := v.extractLsb' 0 7 } }
    ∧ s.hostWrite 0x0C0#12 v = { s with bch := { s.bch with t := v.extractLsb' 0 4 } }
    ∧ s.hostWrite 0x0C4#12 v = { s with bch := { s.bch with genLo := v } }
    ∧ s.hostWrite 0x0C8#12 v = { s with bch := { s.bch with genHi := v } }
    ∧ s.hostWrite 0x0E0#12 v =
        { s with crc := { s.crc with w := v.extractLsb' 0 6, trial := v.extractLsb' 8 2 } }
    ∧ s.hostWrite 0x0E4#12 v = { s with crc := { s.crc with poly := v } }
    ∧ s.hostWrite 0x0E8#12 v = { s with crc := { s.crc with init := v } }
    ∧ s.hostWrite 0x0EC#12 v = { s with crc := { s.crc with xorOut := v } }

/-- A write to an unmapped offset has no effect and raises no error, and a read returns 0 (10_state.md R60). A write to a
read-only register is ignored too, and a read returns the register, its unused high bits 0 (R31, R35, R37, R40, R41, R43,
R48, R49). -/
def Obligations.UnmappedOffsetsAreIgnored : Prop :=
  ∀ (s : State) (off : BitVec 12) (v : Word), s.inFlight = none →
    let o := off.toNat / 4 * 4
    ((o = 0x01C ∨ o = 0x038 ∨ o = 0x03C ∨ (0x050 ≤ o ∧ o ≤ 0x05C) ∨ (0x090 ≤ o ∧ o ≤ 0x09C)
      ∨ (0x0AC ≤ o ∧ o ≤ 0x0BC) ∨ (0x0CC ≤ o ∧ o ≤ 0x0DC) ∨ (0x0F0 ≤ o ∧ o ≤ 0x1FC)) →
      s.hostWrite off v = s ∧ (s.hostRead off).rdata = some 0#32)
    ∧ (∀ p ∈ ([(0x000, 0x42524331#32), (0x020, s.res.res0), (0x024, s.res.res1), (0x028, s.res.res2),
        (0x02C, s.res.res3), (0x034, s.frm.bitCount), (0x048, s.corr.score), (0x04C, s.corr.wp.setWidth 32),
        (0x074, s.frm.frameLen.setWidth 32), (0x078, s.frm.frameTs), (0x07C, s.frm.framePatId.setWidth 32),
        (0x080, s.frm.hist.extractLsb' 0 32), (0x084, s.frm.hist.extractLsb' 32 32), (0x088, s.frm.hfill.setWidth 32),
        (0x08C, s.frm.cc.setWidth 32)] : List (Nat × Word)),
      o = p.1 → s.hostWrite off v = s ∧ (s.hostRead off).rdata = some p.2)
    ∧ ∀ i (h : i < 64), o = 0x300 + 4 * i → s.hostWrite off v = s ∧ (s.hostRead off).rdata = some s.corr.symbuf[i]

/-- A CMD write while idle latches the word and raises BUSY, and changes nothing else of the block; CMD reads 0
(10_state.md R34). The cycles the command takes are a free value (log 2). -/
def Obligations.CmdWriteIssuesTheCommand : Prop :=
  ∀ (s : State) (v : Word), s.inFlight = none →
    (∃ k, s.hostWrite 0x00C#12 v = { s with inFlight := some ⟨v, k⟩, draws := s.draws + 1 })
    ∧ (s.hostRead 0x00C#12).rdata = some 0#32

/-- A write to CORR_LEN stores N and clears the correlator, a write to a framer configuration register stores it and resets
the capture, and neither changes anything else (10_state.md R62). -/
def Obligations.ConfigurationWritesDiscardProgress : Prop :=
  ∀ (s : State) (v : Word), s.inFlight = none →
    let written := fun f : Framer =>
      { s with frm := { f with fstate := .searching, cc := 0#13, cap := 0#4096, tsPend := 0#32 } }
    s.hostWrite 0x040#12 v =
        { s with corr := { s.corr with
          len := v.extractLsb' 0 7, symbuf := Vector.replicate 64 0#32, wp := 0#6, score := 0#32 } }
    ∧ s.hostWrite 0x060#12 v = written { s.frm with patLo := v }
    ∧ s.hostWrite 0x064#12 v = written { s.frm with patHi := v }
    ∧ s.hostWrite 0x068#12 v =
        written { s.frm with
          patLen := v.extractLsb' 0 7, maxErr := v.extractLsb' 8 6, preempt := v.getLsbD 16, incSync := v.getLsbD 17
          patId := v.extractLsb' 24 8 }
    ∧ s.hostWrite 0x06C#12 v = written { s.frm with flen := v.extractLsb' 0 13 }
    ∧ s.hostWrite 0x070#12 v = written { s.frm with dst := v }

/-- A W1C write that arrives in the cycle of a completion leaves set what the completion sets: DONE always, ERR on an error,
SYNC on a detection of CORR_PUSH; a bit that the completion does not set is cleared by it (60_exceptions.md R312;
log 18). -/
def Obligations.WriteWithCompletionLeavesDoneSet : Prop :=
  ∀ (s t : State) (w v : Word) (off : BitVec 12) (rest : List HostOp), s.inFlight = some ⟨w, 0⟩ →
    off.toNat / 4 = 2 → s.host = .write off v :: rest → step s = .next t →
    let detection := decode w = .ok .corrPush ∧ 1 ≤ s.corr.len.toNat ∧ s.corr.len.toNat ≤ 64
      ∧ fgt32 t.corr.score s.corr.thresh = true
    t.status.done = true ∧ t.host = rest ∧ t.inFlight = none
    ∧ t.status.busyErr = (s.status.busyErr && !v.getLsbD 3)
    ∧ (t.status.errCode ≠ 0#4 → t.status.err = true)
    ∧ (t.status.errCode = 0#4 → t.status.err = (s.status.err && !v.getLsbD 2))
    ∧ (detection → t.status.sync = true)
    ∧ (¬ detection → t.status.sync = (s.status.sync && !v.getLsbD 5))
end

