-- ==== Sys2Proof/Laws/State.lean ====
section
/-! SUPPORT. What each named update of State does to each field, one lemma per field per update, so that no later proof
unfolds a record update. -/

namespace Sys2Proof.Machine

/-! ## withBm -/

@[simp] theorem State.withBm_ctrl (s : State) (m : Memory) : (s.withBm m).ctrl = s.ctrl := rfl
@[simp] theorem State.withBm_status (s : State) (m : Memory) : (s.withBm m).status = s.status := rfl
@[simp] theorem State.withBm_inFlight (s : State) (m : Memory) : (s.withBm m).inFlight = s.inFlight := rfl
@[simp] theorem State.withBm_args (s : State) (m : Memory) : (s.withBm m).args = s.args := rfl
@[simp] theorem State.withBm_res (s : State) (m : Memory) : (s.withBm m).res = s.res := rfl
@[simp] theorem State.withBm_ccnt (s : State) (m : Memory) : (s.withBm m).ccnt = s.ccnt := rfl
@[simp] theorem State.withBm_corr (s : State) (m : Memory) : (s.withBm m).corr = s.corr := rfl
@[simp] theorem State.withBm_frm (s : State) (m : Memory) : (s.withBm m).frm = s.frm := rfl
@[simp] theorem State.withBm_vit (s : State) (m : Memory) : (s.withBm m).vit = s.vit := rfl
@[simp] theorem State.withBm_bch (s : State) (m : Memory) : (s.withBm m).bch = s.bch := rfl
@[simp] theorem State.withBm_crc (s : State) (m : Memory) : (s.withBm m).crc = s.crc := rfl
@[simp] theorem State.withBm_bm (s : State) (m : Memory) : (s.withBm m).bm = m := rfl
@[simp] theorem State.withBm_host (s : State) (m : Memory) : (s.withBm m).host = s.host := rfl
@[simp] theorem State.withBm_rdata (s : State) (m : Memory) : (s.withBm m).rdata = s.rdata := rfl
@[simp] theorem State.withBm_draws (s : State) (m : Memory) : (s.withBm m).draws = s.draws := rfl

/-! ## withCorr -/

@[simp] theorem State.withCorr_ctrl (s : State) (c : Corr) : (s.withCorr c).ctrl = s.ctrl := rfl
@[simp] theorem State.withCorr_status (s : State) (c : Corr) : (s.withCorr c).status = s.status := rfl
@[simp] theorem State.withCorr_inFlight (s : State) (c : Corr) : (s.withCorr c).inFlight = s.inFlight := rfl
@[simp] theorem State.withCorr_args (s : State) (c : Corr) : (s.withCorr c).args = s.args := rfl
@[simp] theorem State.withCorr_res (s : State) (c : Corr) : (s.withCorr c).res = s.res := rfl
@[simp] theorem State.withCorr_ccnt (s : State) (c : Corr) : (s.withCorr c).ccnt = s.ccnt := rfl
@[simp] theorem State.withCorr_corr (s : State) (c : Corr) : (s.withCorr c).corr = c := rfl
@[simp] theorem State.withCorr_frm (s : State) (c : Corr) : (s.withCorr c).frm = s.frm := rfl
@[simp] theorem State.withCorr_vit (s : State) (c : Corr) : (s.withCorr c).vit = s.vit := rfl
@[simp] theorem State.withCorr_bch (s : State) (c : Corr) : (s.withCorr c).bch = s.bch := rfl
@[simp] theorem State.withCorr_crc (s : State) (c : Corr) : (s.withCorr c).crc = s.crc := rfl
@[simp] theorem State.withCorr_bm (s : State) (c : Corr) : (s.withCorr c).bm = s.bm := rfl
@[simp] theorem State.withCorr_host (s : State) (c : Corr) : (s.withCorr c).host = s.host := rfl
@[simp] theorem State.withCorr_rdata (s : State) (c : Corr) : (s.withCorr c).rdata = s.rdata := rfl
@[simp] theorem State.withCorr_draws (s : State) (c : Corr) : (s.withCorr c).draws = s.draws := rfl

/-! ## withFrm -/

@[simp] theorem State.withFrm_ctrl (s : State) (f : Framer) : (s.withFrm f).ctrl = s.ctrl := rfl
@[simp] theorem State.withFrm_status (s : State) (f : Framer) : (s.withFrm f).status = s.status := rfl
@[simp] theorem State.withFrm_inFlight (s : State) (f : Framer) : (s.withFrm f).inFlight = s.inFlight := rfl
@[simp] theorem State.withFrm_args (s : State) (f : Framer) : (s.withFrm f).args = s.args := rfl
@[simp] theorem State.withFrm_res (s : State) (f : Framer) : (s.withFrm f).res = s.res := rfl
@[simp] theorem State.withFrm_ccnt (s : State) (f : Framer) : (s.withFrm f).ccnt = s.ccnt := rfl
@[simp] theorem State.withFrm_corr (s : State) (f : Framer) : (s.withFrm f).corr = s.corr := rfl
@[simp] theorem State.withFrm_frm (s : State) (f : Framer) : (s.withFrm f).frm = f := rfl
@[simp] theorem State.withFrm_vit (s : State) (f : Framer) : (s.withFrm f).vit = s.vit := rfl
@[simp] theorem State.withFrm_bch (s : State) (f : Framer) : (s.withFrm f).bch = s.bch := rfl
@[simp] theorem State.withFrm_crc (s : State) (f : Framer) : (s.withFrm f).crc = s.crc := rfl
@[simp] theorem State.withFrm_bm (s : State) (f : Framer) : (s.withFrm f).bm = s.bm := rfl
@[simp] theorem State.withFrm_host (s : State) (f : Framer) : (s.withFrm f).host = s.host := rfl
@[simp] theorem State.withFrm_rdata (s : State) (f : Framer) : (s.withFrm f).rdata = s.rdata := rfl
@[simp] theorem State.withFrm_draws (s : State) (f : Framer) : (s.withFrm f).draws = s.draws := rfl

/-! ## withVit -/

@[simp] theorem State.withVit_ctrl (s : State) (v : Vit) : (s.withVit v).ctrl = s.ctrl := rfl
@[simp] theorem State.withVit_status (s : State) (v : Vit) : (s.withVit v).status = s.status := rfl
@[simp] theorem State.withVit_inFlight (s : State) (v : Vit) : (s.withVit v).inFlight = s.inFlight := rfl
@[simp] theorem State.withVit_args (s : State) (v : Vit) : (s.withVit v).args = s.args := rfl
@[simp] theorem State.withVit_res (s : State) (v : Vit) : (s.withVit v).res = s.res := rfl
@[simp] theorem State.withVit_ccnt (s : State) (v : Vit) : (s.withVit v).ccnt = s.ccnt := rfl
@[simp] theorem State.withVit_corr (s : State) (v : Vit) : (s.withVit v).corr = s.corr := rfl
@[simp] theorem State.withVit_frm (s : State) (v : Vit) : (s.withVit v).frm = s.frm := rfl
@[simp] theorem State.withVit_vit (s : State) (v : Vit) : (s.withVit v).vit = v := rfl
@[simp] theorem State.withVit_bch (s : State) (v : Vit) : (s.withVit v).bch = s.bch := rfl
@[simp] theorem State.withVit_crc (s : State) (v : Vit) : (s.withVit v).crc = s.crc := rfl
@[simp] theorem State.withVit_bm (s : State) (v : Vit) : (s.withVit v).bm = s.bm := rfl
@[simp] theorem State.withVit_host (s : State) (v : Vit) : (s.withVit v).host = s.host := rfl
@[simp] theorem State.withVit_rdata (s : State) (v : Vit) : (s.withVit v).rdata = s.rdata := rfl
@[simp] theorem State.withVit_draws (s : State) (v : Vit) : (s.withVit v).draws = s.draws := rfl

/-! ## withBch -/

@[simp] theorem State.withBch_ctrl (s : State) (b : Bch) : (s.withBch b).ctrl = s.ctrl := rfl
@[simp] theorem State.withBch_status (s : State) (b : Bch) : (s.withBch b).status = s.status := rfl
@[simp] theorem State.withBch_inFlight (s : State) (b : Bch) : (s.withBch b).inFlight = s.inFlight := rfl
@[simp] theorem State.withBch_args (s : State) (b : Bch) : (s.withBch b).args = s.args := rfl
@[simp] theorem State.withBch_res (s : State) (b : Bch) : (s.withBch b).res = s.res := rfl
@[simp] theorem State.withBch_ccnt (s : State) (b : Bch) : (s.withBch b).ccnt = s.ccnt := rfl
@[simp] theorem State.withBch_corr (s : State) (b : Bch) : (s.withBch b).corr = s.corr := rfl
@[simp] theorem State.withBch_frm (s : State) (b : Bch) : (s.withBch b).frm = s.frm := rfl
@[simp] theorem State.withBch_vit (s : State) (b : Bch) : (s.withBch b).vit = s.vit := rfl
@[simp] theorem State.withBch_bch (s : State) (b : Bch) : (s.withBch b).bch = b := rfl
@[simp] theorem State.withBch_crc (s : State) (b : Bch) : (s.withBch b).crc = s.crc := rfl
@[simp] theorem State.withBch_bm (s : State) (b : Bch) : (s.withBch b).bm = s.bm := rfl
@[simp] theorem State.withBch_host (s : State) (b : Bch) : (s.withBch b).host = s.host := rfl
@[simp] theorem State.withBch_rdata (s : State) (b : Bch) : (s.withBch b).rdata = s.rdata := rfl
@[simp] theorem State.withBch_draws (s : State) (b : Bch) : (s.withBch b).draws = s.draws := rfl

/-! ## withCrc -/

@[simp] theorem State.withCrc_ctrl (s : State) (c : Crc) : (s.withCrc c).ctrl = s.ctrl := rfl
@[simp] theorem State.withCrc_status (s : State) (c : Crc) : (s.withCrc c).status = s.status := rfl
@[simp] theorem State.withCrc_inFlight (s : State) (c : Crc) : (s.withCrc c).inFlight = s.inFlight := rfl
@[simp] theorem State.withCrc_args (s : State) (c : Crc) : (s.withCrc c).args = s.args := rfl
@[simp] theorem State.withCrc_res (s : State) (c : Crc) : (s.withCrc c).res = s.res := rfl
@[simp] theorem State.withCrc_ccnt (s : State) (c : Crc) : (s.withCrc c).ccnt = s.ccnt := rfl
@[simp] theorem State.withCrc_corr (s : State) (c : Crc) : (s.withCrc c).corr = s.corr := rfl
@[simp] theorem State.withCrc_frm (s : State) (c : Crc) : (s.withCrc c).frm = s.frm := rfl
@[simp] theorem State.withCrc_vit (s : State) (c : Crc) : (s.withCrc c).vit = s.vit := rfl
@[simp] theorem State.withCrc_bch (s : State) (c : Crc) : (s.withCrc c).bch = s.bch := rfl
@[simp] theorem State.withCrc_crc (s : State) (c : Crc) : (s.withCrc c).crc = c := rfl
@[simp] theorem State.withCrc_bm (s : State) (c : Crc) : (s.withCrc c).bm = s.bm := rfl
@[simp] theorem State.withCrc_host (s : State) (c : Crc) : (s.withCrc c).host = s.host := rfl
@[simp] theorem State.withCrc_rdata (s : State) (c : Crc) : (s.withCrc c).rdata = s.rdata := rfl
@[simp] theorem State.withCrc_draws (s : State) (c : Crc) : (s.withCrc c).draws = s.draws := rfl

/-! ## withCtrl -/

@[simp] theorem State.withCtrl_ctrl (s : State) (c : Ctrl) : (s.withCtrl c).ctrl = c := rfl
@[simp] theorem State.withCtrl_status (s : State) (c : Ctrl) : (s.withCtrl c).status = s.status := rfl
@[simp] theorem State.withCtrl_inFlight (s : State) (c : Ctrl) : (s.withCtrl c).inFlight = s.inFlight := rfl
@[simp] theorem State.withCtrl_args (s : State) (c : Ctrl) : (s.withCtrl c).args = s.args := rfl
@[simp] theorem State.withCtrl_res (s : State) (c : Ctrl) : (s.withCtrl c).res = s.res := rfl
@[simp] theorem State.withCtrl_ccnt (s : State) (c : Ctrl) : (s.withCtrl c).ccnt = s.ccnt := rfl
@[simp] theorem State.withCtrl_corr (s : State) (c : Ctrl) : (s.withCtrl c).corr = s.corr := rfl
@[simp] theorem State.withCtrl_frm (s : State) (c : Ctrl) : (s.withCtrl c).frm = s.frm := rfl
@[simp] theorem State.withCtrl_vit (s : State) (c : Ctrl) : (s.withCtrl c).vit = s.vit := rfl
@[simp] theorem State.withCtrl_bch (s : State) (c : Ctrl) : (s.withCtrl c).bch = s.bch := rfl
@[simp] theorem State.withCtrl_crc (s : State) (c : Ctrl) : (s.withCtrl c).crc = s.crc := rfl
@[simp] theorem State.withCtrl_bm (s : State) (c : Ctrl) : (s.withCtrl c).bm = s.bm := rfl
@[simp] theorem State.withCtrl_host (s : State) (c : Ctrl) : (s.withCtrl c).host = s.host := rfl
@[simp] theorem State.withCtrl_rdata (s : State) (c : Ctrl) : (s.withCtrl c).rdata = s.rdata := rfl
@[simp] theorem State.withCtrl_draws (s : State) (c : Ctrl) : (s.withCtrl c).draws = s.draws := rfl

/-! ## withStatus -/

@[simp] theorem State.withStatus_ctrl (s : State) (t : Status) : (s.withStatus t).ctrl = s.ctrl := rfl
@[simp] theorem State.withStatus_status (s : State) (t : Status) : (s.withStatus t).status = t := rfl
@[simp] theorem State.withStatus_inFlight (s : State) (t : Status) : (s.withStatus t).inFlight = s.inFlight := rfl
@[simp] theorem State.withStatus_args (s : State) (t : Status) : (s.withStatus t).args = s.args := rfl
@[simp] theorem State.withStatus_res (s : State) (t : Status) : (s.withStatus t).res = s.res := rfl
@[simp] theorem State.withStatus_ccnt (s : State) (t : Status) : (s.withStatus t).ccnt = s.ccnt := rfl
@[simp] theorem State.withStatus_corr (s : State) (t : Status) : (s.withStatus t).corr = s.corr := rfl
@[simp] theorem State.withStatus_frm (s : State) (t : Status) : (s.withStatus t).frm = s.frm := rfl
@[simp] theorem State.withStatus_vit (s : State) (t : Status) : (s.withStatus t).vit = s.vit := rfl
@[simp] theorem State.withStatus_bch (s : State) (t : Status) : (s.withStatus t).bch = s.bch := rfl
@[simp] theorem State.withStatus_crc (s : State) (t : Status) : (s.withStatus t).crc = s.crc := rfl
@[simp] theorem State.withStatus_bm (s : State) (t : Status) : (s.withStatus t).bm = s.bm := rfl
@[simp] theorem State.withStatus_host (s : State) (t : Status) : (s.withStatus t).host = s.host := rfl
@[simp] theorem State.withStatus_rdata (s : State) (t : Status) : (s.withStatus t).rdata = s.rdata := rfl
@[simp] theorem State.withStatus_draws (s : State) (t : Status) : (s.withStatus t).draws = s.draws := rfl

/-! ## withArgs -/

@[simp] theorem State.withArgs_ctrl (s : State) (a : Args) : (s.withArgs a).ctrl = s.ctrl := rfl
@[simp] theorem State.withArgs_status (s : State) (a : Args) : (s.withArgs a).status = s.status := rfl
@[simp] theorem State.withArgs_inFlight (s : State) (a : Args) : (s.withArgs a).inFlight = s.inFlight := rfl
@[simp] theorem State.withArgs_args (s : State) (a : Args) : (s.withArgs a).args = a := rfl
@[simp] theorem State.withArgs_res (s : State) (a : Args) : (s.withArgs a).res = s.res := rfl
@[simp] theorem State.withArgs_ccnt (s : State) (a : Args) : (s.withArgs a).ccnt = s.ccnt := rfl
@[simp] theorem State.withArgs_corr (s : State) (a : Args) : (s.withArgs a).corr = s.corr := rfl
@[simp] theorem State.withArgs_frm (s : State) (a : Args) : (s.withArgs a).frm = s.frm := rfl
@[simp] theorem State.withArgs_vit (s : State) (a : Args) : (s.withArgs a).vit = s.vit := rfl
@[simp] theorem State.withArgs_bch (s : State) (a : Args) : (s.withArgs a).bch = s.bch := rfl
@[simp] theorem State.withArgs_crc (s : State) (a : Args) : (s.withArgs a).crc = s.crc := rfl
@[simp] theorem State.withArgs_bm (s : State) (a : Args) : (s.withArgs a).bm = s.bm := rfl
@[simp] theorem State.withArgs_host (s : State) (a : Args) : (s.withArgs a).host = s.host := rfl
@[simp] theorem State.withArgs_rdata (s : State) (a : Args) : (s.withArgs a).rdata = s.rdata := rfl
@[simp] theorem State.withArgs_draws (s : State) (a : Args) : (s.withArgs a).draws = s.draws := rfl

/-! ## withCcnt -/

@[simp] theorem State.withCcnt_ctrl (s : State) (c : Word) : (s.withCcnt c).ctrl = s.ctrl := rfl
@[simp] theorem State.withCcnt_status (s : State) (c : Word) : (s.withCcnt c).status = s.status := rfl
@[simp] theorem State.withCcnt_inFlight (s : State) (c : Word) : (s.withCcnt c).inFlight = s.inFlight := rfl
@[simp] theorem State.withCcnt_args (s : State) (c : Word) : (s.withCcnt c).args = s.args := rfl
@[simp] theorem State.withCcnt_res (s : State) (c : Word) : (s.withCcnt c).res = s.res := rfl
@[simp] theorem State.withCcnt_ccnt (s : State) (c : Word) : (s.withCcnt c).ccnt = c := rfl
@[simp] theorem State.withCcnt_corr (s : State) (c : Word) : (s.withCcnt c).corr = s.corr := rfl
@[simp] theorem State.withCcnt_frm (s : State) (c : Word) : (s.withCcnt c).frm = s.frm := rfl
@[simp] theorem State.withCcnt_vit (s : State) (c : Word) : (s.withCcnt c).vit = s.vit := rfl
@[simp] theorem State.withCcnt_bch (s : State) (c : Word) : (s.withCcnt c).bch = s.bch := rfl
@[simp] theorem State.withCcnt_crc (s : State) (c : Word) : (s.withCcnt c).crc = s.crc := rfl
@[simp] theorem State.withCcnt_bm (s : State) (c : Word) : (s.withCcnt c).bm = s.bm := rfl
@[simp] theorem State.withCcnt_host (s : State) (c : Word) : (s.withCcnt c).host = s.host := rfl
@[simp] theorem State.withCcnt_rdata (s : State) (c : Word) : (s.withCcnt c).rdata = s.rdata := rfl
@[simp] theorem State.withCcnt_draws (s : State) (c : Word) : (s.withCcnt c).draws = s.draws := rfl

/-! ## withInFlight -/

@[simp] theorem State.withInFlight_ctrl (s : State) (c : Option InFlight) : (s.withInFlight c).ctrl = s.ctrl := rfl
@[simp] theorem State.withInFlight_status (s : State) (c : Option InFlight) : (s.withInFlight c).status = s.status := rfl
@[simp] theorem State.withInFlight_inFlight (s : State) (c : Option InFlight) : (s.withInFlight c).inFlight = c := rfl
@[simp] theorem State.withInFlight_args (s : State) (c : Option InFlight) : (s.withInFlight c).args = s.args := rfl
@[simp] theorem State.withInFlight_res (s : State) (c : Option InFlight) : (s.withInFlight c).res = s.res := rfl
@[simp] theorem State.withInFlight_ccnt (s : State) (c : Option InFlight) : (s.withInFlight c).ccnt = s.ccnt := rfl
@[simp] theorem State.withInFlight_corr (s : State) (c : Option InFlight) : (s.withInFlight c).corr = s.corr := rfl
@[simp] theorem State.withInFlight_frm (s : State) (c : Option InFlight) : (s.withInFlight c).frm = s.frm := rfl
@[simp] theorem State.withInFlight_vit (s : State) (c : Option InFlight) : (s.withInFlight c).vit = s.vit := rfl
@[simp] theorem State.withInFlight_bch (s : State) (c : Option InFlight) : (s.withInFlight c).bch = s.bch := rfl
@[simp] theorem State.withInFlight_crc (s : State) (c : Option InFlight) : (s.withInFlight c).crc = s.crc := rfl
@[simp] theorem State.withInFlight_bm (s : State) (c : Option InFlight) : (s.withInFlight c).bm = s.bm := rfl
@[simp] theorem State.withInFlight_host (s : State) (c : Option InFlight) : (s.withInFlight c).host = s.host := rfl
@[simp] theorem State.withInFlight_rdata (s : State) (c : Option InFlight) : (s.withInFlight c).rdata = s.rdata := rfl
@[simp] theorem State.withInFlight_draws (s : State) (c : Option InFlight) : (s.withInFlight c).draws = s.draws := rfl

/-! ## withHost -/

@[simp] theorem State.withHost_ctrl (s : State) (h : List HostOp) : (s.withHost h).ctrl = s.ctrl := rfl
@[simp] theorem State.withHost_status (s : State) (h : List HostOp) : (s.withHost h).status = s.status := rfl
@[simp] theorem State.withHost_inFlight (s : State) (h : List HostOp) : (s.withHost h).inFlight = s.inFlight := rfl
@[simp] theorem State.withHost_args (s : State) (h : List HostOp) : (s.withHost h).args = s.args := rfl
@[simp] theorem State.withHost_res (s : State) (h : List HostOp) : (s.withHost h).res = s.res := rfl
@[simp] theorem State.withHost_ccnt (s : State) (h : List HostOp) : (s.withHost h).ccnt = s.ccnt := rfl
@[simp] theorem State.withHost_corr (s : State) (h : List HostOp) : (s.withHost h).corr = s.corr := rfl
@[simp] theorem State.withHost_frm (s : State) (h : List HostOp) : (s.withHost h).frm = s.frm := rfl
@[simp] theorem State.withHost_vit (s : State) (h : List HostOp) : (s.withHost h).vit = s.vit := rfl
@[simp] theorem State.withHost_bch (s : State) (h : List HostOp) : (s.withHost h).bch = s.bch := rfl
@[simp] theorem State.withHost_crc (s : State) (h : List HostOp) : (s.withHost h).crc = s.crc := rfl
@[simp] theorem State.withHost_bm (s : State) (h : List HostOp) : (s.withHost h).bm = s.bm := rfl
@[simp] theorem State.withHost_host (s : State) (h : List HostOp) : (s.withHost h).host = h := rfl
@[simp] theorem State.withHost_rdata (s : State) (h : List HostOp) : (s.withHost h).rdata = s.rdata := rfl
@[simp] theorem State.withHost_draws (s : State) (h : List HostOp) : (s.withHost h).draws = s.draws := rfl

/-! ## withRdata -/

@[simp] theorem State.withRdata_ctrl (s : State) (d : Word) : (s.withRdata d).ctrl = s.ctrl := rfl
@[simp] theorem State.withRdata_status (s : State) (d : Word) : (s.withRdata d).status = s.status := rfl
@[simp] theorem State.withRdata_inFlight (s : State) (d : Word) : (s.withRdata d).inFlight = s.inFlight := rfl
@[simp] theorem State.withRdata_args (s : State) (d : Word) : (s.withRdata d).args = s.args := rfl
@[simp] theorem State.withRdata_res (s : State) (d : Word) : (s.withRdata d).res = s.res := rfl
@[simp] theorem State.withRdata_ccnt (s : State) (d : Word) : (s.withRdata d).ccnt = s.ccnt := rfl
@[simp] theorem State.withRdata_corr (s : State) (d : Word) : (s.withRdata d).corr = s.corr := rfl
@[simp] theorem State.withRdata_frm (s : State) (d : Word) : (s.withRdata d).frm = s.frm := rfl
@[simp] theorem State.withRdata_vit (s : State) (d : Word) : (s.withRdata d).vit = s.vit := rfl
@[simp] theorem State.withRdata_bch (s : State) (d : Word) : (s.withRdata d).bch = s.bch := rfl
@[simp] theorem State.withRdata_crc (s : State) (d : Word) : (s.withRdata d).crc = s.crc := rfl
@[simp] theorem State.withRdata_bm (s : State) (d : Word) : (s.withRdata d).bm = s.bm := rfl
@[simp] theorem State.withRdata_host (s : State) (d : Word) : (s.withRdata d).host = s.host := rfl
@[simp] theorem State.withRdata_rdata (s : State) (d : Word) : (s.withRdata d).rdata = some d := rfl
@[simp] theorem State.withRdata_draws (s : State) (d : Word) : (s.withRdata d).draws = s.draws := rfl

/-! ## withDraws -/

@[simp] theorem State.withDraws_ctrl (s : State) (k : Nat) : (s.withDraws k).ctrl = s.ctrl := rfl
@[simp] theorem State.withDraws_status (s : State) (k : Nat) : (s.withDraws k).status = s.status := rfl
@[simp] theorem State.withDraws_inFlight (s : State) (k : Nat) : (s.withDraws k).inFlight = s.inFlight := rfl
@[simp] theorem State.withDraws_args (s : State) (k : Nat) : (s.withDraws k).args = s.args := rfl
@[simp] theorem State.withDraws_res (s : State) (k : Nat) : (s.withDraws k).res = s.res := rfl
@[simp] theorem State.withDraws_ccnt (s : State) (k : Nat) : (s.withDraws k).ccnt = s.ccnt := rfl
@[simp] theorem State.withDraws_corr (s : State) (k : Nat) : (s.withDraws k).corr = s.corr := rfl
@[simp] theorem State.withDraws_frm (s : State) (k : Nat) : (s.withDraws k).frm = s.frm := rfl
@[simp] theorem State.withDraws_vit (s : State) (k : Nat) : (s.withDraws k).vit = s.vit := rfl
@[simp] theorem State.withDraws_bch (s : State) (k : Nat) : (s.withDraws k).bch = s.bch := rfl
@[simp] theorem State.withDraws_crc (s : State) (k : Nat) : (s.withDraws k).crc = s.crc := rfl
@[simp] theorem State.withDraws_bm (s : State) (k : Nat) : (s.withDraws k).bm = s.bm := rfl
@[simp] theorem State.withDraws_host (s : State) (k : Nat) : (s.withDraws k).host = s.host := rfl
@[simp] theorem State.withDraws_rdata (s : State) (k : Nat) : (s.withDraws k).rdata = s.rdata := rfl
@[simp] theorem State.withDraws_draws (s : State) (k : Nat) : (s.withDraws k).draws = k := rfl

/-! ## withFrameReady -/

@[simp] theorem State.withFrameReady_ctrl (s : State) (b : Bool) : (s.withFrameReady b).ctrl = s.ctrl := rfl
@[simp] theorem State.withFrameReady_status (s : State) (b : Bool) : (s.withFrameReady b).status = { s.status with frameReady := b } := rfl
@[simp] theorem State.withFrameReady_inFlight (s : State) (b : Bool) : (s.withFrameReady b).inFlight = s.inFlight := rfl
@[simp] theorem State.withFrameReady_args (s : State) (b : Bool) : (s.withFrameReady b).args = s.args := rfl
@[simp] theorem State.withFrameReady_res (s : State) (b : Bool) : (s.withFrameReady b).res = s.res := rfl
@[simp] theorem State.withFrameReady_ccnt (s : State) (b : Bool) : (s.withFrameReady b).ccnt = s.ccnt := rfl
@[simp] theorem State.withFrameReady_corr (s : State) (b : Bool) : (s.withFrameReady b).corr = s.corr := rfl
@[simp] theorem State.withFrameReady_frm (s : State) (b : Bool) : (s.withFrameReady b).frm = s.frm := rfl
@[simp] theorem State.withFrameReady_vit (s : State) (b : Bool) : (s.withFrameReady b).vit = s.vit := rfl
@[simp] theorem State.withFrameReady_bch (s : State) (b : Bool) : (s.withFrameReady b).bch = s.bch := rfl
@[simp] theorem State.withFrameReady_crc (s : State) (b : Bool) : (s.withFrameReady b).crc = s.crc := rfl
@[simp] theorem State.withFrameReady_bm (s : State) (b : Bool) : (s.withFrameReady b).bm = s.bm := rfl
@[simp] theorem State.withFrameReady_host (s : State) (b : Bool) : (s.withFrameReady b).host = s.host := rfl
@[simp] theorem State.withFrameReady_rdata (s : State) (b : Bool) : (s.withFrameReady b).rdata = s.rdata := rfl
@[simp] theorem State.withFrameReady_draws (s : State) (b : Bool) : (s.withFrameReady b).draws = s.draws := rfl

/-! ## raiseSync -/

@[simp] theorem State.raiseSync_ctrl (s : State) : (s.raiseSync).ctrl = s.ctrl := rfl
@[simp] theorem State.raiseSync_status (s : State) : (s.raiseSync).status = { s.status with sync := true } := rfl
@[simp] theorem State.raiseSync_inFlight (s : State) : (s.raiseSync).inFlight = s.inFlight := rfl
@[simp] theorem State.raiseSync_args (s : State) : (s.raiseSync).args = s.args := rfl
@[simp] theorem State.raiseSync_res (s : State) : (s.raiseSync).res = s.res := rfl
@[simp] theorem State.raiseSync_ccnt (s : State) : (s.raiseSync).ccnt = s.ccnt := rfl
@[simp] theorem State.raiseSync_corr (s : State) : (s.raiseSync).corr = s.corr := rfl
@[simp] theorem State.raiseSync_frm (s : State) : (s.raiseSync).frm = s.frm := rfl
@[simp] theorem State.raiseSync_vit (s : State) : (s.raiseSync).vit = s.vit := rfl
@[simp] theorem State.raiseSync_bch (s : State) : (s.raiseSync).bch = s.bch := rfl
@[simp] theorem State.raiseSync_crc (s : State) : (s.raiseSync).crc = s.crc := rfl
@[simp] theorem State.raiseSync_bm (s : State) : (s.raiseSync).bm = s.bm := rfl
@[simp] theorem State.raiseSync_host (s : State) : (s.raiseSync).host = s.host := rfl
@[simp] theorem State.raiseSync_rdata (s : State) : (s.raiseSync).rdata = s.rdata := rfl
@[simp] theorem State.raiseSync_draws (s : State) : (s.raiseSync).draws = s.draws := rfl

/-! ## raiseBusyErr -/

@[simp] theorem State.raiseBusyErr_ctrl (s : State) : (s.raiseBusyErr).ctrl = s.ctrl := rfl
@[simp] theorem State.raiseBusyErr_status (s : State) : (s.raiseBusyErr).status = { s.status with busyErr := true } := rfl
@[simp] theorem State.raiseBusyErr_inFlight (s : State) : (s.raiseBusyErr).inFlight = s.inFlight := rfl
@[simp] theorem State.raiseBusyErr_args (s : State) : (s.raiseBusyErr).args = s.args := rfl
@[simp] theorem State.raiseBusyErr_res (s : State) : (s.raiseBusyErr).res = s.res := rfl
@[simp] theorem State.raiseBusyErr_ccnt (s : State) : (s.raiseBusyErr).ccnt = s.ccnt := rfl
@[simp] theorem State.raiseBusyErr_corr (s : State) : (s.raiseBusyErr).corr = s.corr := rfl
@[simp] theorem State.raiseBusyErr_frm (s : State) : (s.raiseBusyErr).frm = s.frm := rfl
@[simp] theorem State.raiseBusyErr_vit (s : State) : (s.raiseBusyErr).vit = s.vit := rfl
@[simp] theorem State.raiseBusyErr_bch (s : State) : (s.raiseBusyErr).bch = s.bch := rfl
@[simp] theorem State.raiseBusyErr_crc (s : State) : (s.raiseBusyErr).crc = s.crc := rfl
@[simp] theorem State.raiseBusyErr_bm (s : State) : (s.raiseBusyErr).bm = s.bm := rfl
@[simp] theorem State.raiseBusyErr_host (s : State) : (s.raiseBusyErr).host = s.host := rfl
@[simp] theorem State.raiseBusyErr_rdata (s : State) : (s.raiseBusyErr).rdata = s.rdata := rfl
@[simp] theorem State.raiseBusyErr_draws (s : State) : (s.raiseBusyErr).draws = s.draws := rfl

/-! ## addCorrected -/

@[simp] theorem State.addCorrected_ctrl (s : State) (n : Nat) : (s.addCorrected n).ctrl = s.ctrl := rfl
@[simp] theorem State.addCorrected_status (s : State) (n : Nat) : (s.addCorrected n).status = s.status := rfl
@[simp] theorem State.addCorrected_inFlight (s : State) (n : Nat) : (s.addCorrected n).inFlight = s.inFlight := rfl
@[simp] theorem State.addCorrected_args (s : State) (n : Nat) : (s.addCorrected n).args = s.args := rfl
@[simp] theorem State.addCorrected_res (s : State) (n : Nat) : (s.addCorrected n).res = s.res := rfl
@[simp] theorem State.addCorrected_ccnt (s : State) (n : Nat) : (s.addCorrected n).ccnt = BitVec.ofNat 32 (min (s.ccnt.toNat + n) 0xFFFFFFFF) := rfl
@[simp] theorem State.addCorrected_corr (s : State) (n : Nat) : (s.addCorrected n).corr = s.corr := rfl
@[simp] theorem State.addCorrected_frm (s : State) (n : Nat) : (s.addCorrected n).frm = s.frm := rfl
@[simp] theorem State.addCorrected_vit (s : State) (n : Nat) : (s.addCorrected n).vit = s.vit := rfl
@[simp] theorem State.addCorrected_bch (s : State) (n : Nat) : (s.addCorrected n).bch = s.bch := rfl
@[simp] theorem State.addCorrected_crc (s : State) (n : Nat) : (s.addCorrected n).crc = s.crc := rfl
@[simp] theorem State.addCorrected_bm (s : State) (n : Nat) : (s.addCorrected n).bm = s.bm := rfl
@[simp] theorem State.addCorrected_host (s : State) (n : Nat) : (s.addCorrected n).host = s.host := rfl
@[simp] theorem State.addCorrected_rdata (s : State) (n : Nat) : (s.addCorrected n).rdata = s.rdata := rfl
@[simp] theorem State.addCorrected_draws (s : State) (n : Nat) : (s.addCorrected n).draws = s.draws := rfl

/-! ## resetBlock -/

@[simp] theorem State.resetBlock_ctrl (s : State) : (s.resetBlock).ctrl = State.reset.ctrl := rfl
@[simp] theorem State.resetBlock_status (s : State) : (s.resetBlock).status = State.reset.status := rfl
@[simp] theorem State.resetBlock_inFlight (s : State) : (s.resetBlock).inFlight = State.reset.inFlight := rfl
@[simp] theorem State.resetBlock_args (s : State) : (s.resetBlock).args = State.reset.args := rfl
@[simp] theorem State.resetBlock_res (s : State) : (s.resetBlock).res = State.reset.res := rfl
@[simp] theorem State.resetBlock_ccnt (s : State) : (s.resetBlock).ccnt = State.reset.ccnt := rfl
@[simp] theorem State.resetBlock_corr (s : State) : (s.resetBlock).corr = State.reset.corr := rfl
@[simp] theorem State.resetBlock_frm (s : State) : (s.resetBlock).frm = State.reset.frm := rfl
@[simp] theorem State.resetBlock_vit (s : State) : (s.resetBlock).vit = State.reset.vit := rfl
@[simp] theorem State.resetBlock_bch (s : State) : (s.resetBlock).bch = State.reset.bch := rfl
@[simp] theorem State.resetBlock_crc (s : State) : (s.resetBlock).crc = State.reset.crc := rfl
@[simp] theorem State.resetBlock_bm (s : State) : (s.resetBlock).bm = State.reset.bm := rfl
@[simp] theorem State.resetBlock_host (s : State) : (s.resetBlock).host = s.host := rfl
@[simp] theorem State.resetBlock_rdata (s : State) : (s.resetBlock).rdata = s.rdata := rfl
@[simp] theorem State.resetBlock_draws (s : State) : (s.resetBlock).draws = s.draws := rfl

/-! ## complete -/

@[simp] theorem State.complete_ctrl (o : BitVec 8) (r : Results) (s : State) :
    (s.complete o r).ctrl = s.ctrl := rfl
@[simp] theorem State.complete_status (o : BitVec 8) (r : Results) (s : State) :
    (s.complete o r).status = { s.status with errCode := 0#4, lastOp := o, done := true } := rfl
@[simp] theorem State.complete_inFlight (o : BitVec 8) (r : Results) (s : State) :
    (s.complete o r).inFlight = none := rfl
@[simp] theorem State.complete_args (o : BitVec 8) (r : Results) (s : State) :
    (s.complete o r).args = s.args := rfl
@[simp] theorem State.complete_res (o : BitVec 8) (r : Results) (s : State) :
    (s.complete o r).res = r := rfl
@[simp] theorem State.complete_ccnt (o : BitVec 8) (r : Results) (s : State) :
    (s.complete o r).ccnt = s.ccnt := rfl
@[simp] theorem State.complete_corr (o : BitVec 8) (r : Results) (s : State) :
    (s.complete o r).corr = s.corr := rfl
@[simp] theorem State.complete_frm (o : BitVec 8) (r : Results) (s : State) :
    (s.complete o r).frm = s.frm := rfl
@[simp] theorem State.complete_vit (o : BitVec 8) (r : Results) (s : State) :
    (s.complete o r).vit = s.vit := rfl
@[simp] theorem State.complete_bch (o : BitVec 8) (r : Results) (s : State) :
    (s.complete o r).bch = s.bch := rfl
@[simp] theorem State.complete_crc (o : BitVec 8) (r : Results) (s : State) :
    (s.complete o r).crc = s.crc := rfl
@[simp] theorem State.complete_bm (o : BitVec 8) (r : Results) (s : State) :
    (s.complete o r).bm = s.bm := rfl
@[simp] theorem State.complete_host (o : BitVec 8) (r : Results) (s : State) :
    (s.complete o r).host = s.host := rfl
@[simp] theorem State.complete_rdata (o : BitVec 8) (r : Results) (s : State) :
    (s.complete o r).rdata = s.rdata := rfl
@[simp] theorem State.complete_draws (o : BitVec 8) (r : Results) (s : State) :
    (s.complete o r).draws = s.draws := rfl

/-! ## raiseError -/

@[simp] theorem State.raiseError_ctrl (o : BitVec 8) (e : CmdError) (s : State) :
    (s.raiseError o e).ctrl = s.ctrl := rfl
@[simp] theorem State.raiseError_status (o : BitVec 8) (e : CmdError) (s : State) :
    (s.raiseError o e).status = { s.status with errCode := e.code, lastOp := o, err := true, done := true } := rfl
@[simp] theorem State.raiseError_inFlight (o : BitVec 8) (e : CmdError) (s : State) :
    (s.raiseError o e).inFlight = none := rfl
@[simp] theorem State.raiseError_args (o : BitVec 8) (e : CmdError) (s : State) :
    (s.raiseError o e).args = s.args := rfl
@[simp] theorem State.raiseError_res (o : BitVec 8) (e : CmdError) (s : State) :
    (s.raiseError o e).res = s.res := rfl
@[simp] theorem State.raiseError_ccnt (o : BitVec 8) (e : CmdError) (s : State) :
    (s.raiseError o e).ccnt = s.ccnt := rfl
@[simp] theorem State.raiseError_corr (o : BitVec 8) (e : CmdError) (s : State) :
    (s.raiseError o e).corr = s.corr := rfl
@[simp] theorem State.raiseError_frm (o : BitVec 8) (e : CmdError) (s : State) :
    (s.raiseError o e).frm = s.frm := rfl
@[simp] theorem State.raiseError_vit (o : BitVec 8) (e : CmdError) (s : State) :
    (s.raiseError o e).vit = s.vit := rfl
@[simp] theorem State.raiseError_bch (o : BitVec 8) (e : CmdError) (s : State) :
    (s.raiseError o e).bch = s.bch := rfl
@[simp] theorem State.raiseError_crc (o : BitVec 8) (e : CmdError) (s : State) :
    (s.raiseError o e).crc = s.crc := rfl
@[simp] theorem State.raiseError_bm (o : BitVec 8) (e : CmdError) (s : State) :
    (s.raiseError o e).bm = s.bm := rfl
@[simp] theorem State.raiseError_host (o : BitVec 8) (e : CmdError) (s : State) :
    (s.raiseError o e).host = s.host := rfl
@[simp] theorem State.raiseError_rdata (o : BitVec 8) (e : CmdError) (s : State) :
    (s.raiseError o e).rdata = s.rdata := rfl
@[simp] theorem State.raiseError_draws (o : BitVec 8) (e : CmdError) (s : State) :
    (s.raiseError o e).draws = s.draws := rfl

end Sys2Proof.Machine
end

