-- ==== Sys2Proof/Laws/Memory.lean ====
section
/-! SUPPORT. The laws of BM: a byte read after a byte write, the canonical form kept by every operation, and the same for
bits, bit vectors and host words. -/

namespace Sys2Proof.Machine

/-! ## Bytes -/

theorem Memory.read_erase_self (m : Memory) (a : Nat) : (m.erase a).read a = 0#8 := by
  induction m with
  | nil => rfl
  | cons c m ih =>
    obtain ⟨k, v⟩ := c
    by_cases h : k = a <;> simp [Memory.erase, Memory.read, h, ih]

theorem Memory.read_erase_ne (m : Memory) {a x : Nat} (h : x ≠ a) : (m.erase a).read x = m.read x := by
  induction m with
  | nil => rfl
  | cons c m ih =>
    obtain ⟨k, v⟩ := c
    by_cases hk : k = a
    · have : k ≠ x := fun e => h (e.symm.trans hk)
      simp [Memory.erase, Memory.read, hk, ih, Ne.symm h]
    · simp only [Memory.erase, Memory.read, hk, if_false]
      by_cases hx : k = x <;> simp [hx, ih]

theorem Memory.read_insert_ne (m : Memory) {a x : Nat} (b : Byte) (h : x ≠ a) :
    (m.insert a b).read x = m.read x := by
  induction m with
  | nil => simp [Memory.insert, Memory.read, Ne.symm h]
  | cons c m ih =>
    obtain ⟨k, v⟩ := c
    by_cases hk : a < k
    · simp [Memory.insert, Memory.read, hk, Ne.symm h]
    · simp only [Memory.insert, hk, if_false, Memory.read, ih]

theorem Memory.read_insert_erase_self (m : Memory) (a : Nat) (b : Byte) :
    ((m.erase a).insert a b).read a = b := by
  induction m with
  | nil => simp [Memory.erase, Memory.insert, Memory.read]
  | cons c m ih =>
    obtain ⟨k, v⟩ := c
    by_cases hk : k = a
    · simpa [Memory.erase, hk] using ih
    · simp only [Memory.erase, hk, if_false, Memory.insert]
      by_cases h : a < k
      · simp [h, Memory.read]
      · simp [h, Memory.read, hk, ih]

/-- A byte read after a write to the same offset gives the byte written. -/
@[simp] theorem Memory.read_write_self (m : Memory) (a : Nat) (b : Byte) : (m.write a b).read a = b := by
  unfold Memory.write
  split
  · next h => rw [Memory.read_erase_self, h]
  · exact Memory.read_insert_erase_self m a b

/-- A write leaves every other offset alone. -/
theorem Memory.read_write_ne (m : Memory) {a x : Nat} (b : Byte) (h : x ≠ a) :
    (m.write a b).read x = m.read x := by
  unfold Memory.write
  split
  · exact Memory.read_erase_ne m h
  · rw [Memory.read_insert_ne _ b h, Memory.read_erase_ne m h]

theorem Memory.read_write (m : Memory) (a x : Nat) (b : Byte) :
    (m.write a b).read x = if x = a then b else m.read x := by
  by_cases h : x = a
  · simp [h]
  · simp [h, Memory.read_write_ne m b h]

/-! ## The canonical form -/

theorem Memory.above_erase {m : Memory} {k : Nat} (a : Nat) (h : m.above k = true) :
    (m.erase a).above k = true := by
  induction m with
  | nil => rfl
  | cons c m ih =>
    obtain ⟨j, v⟩ := c
    simp only [Memory.above, List.all_cons, Bool.and_eq_true] at h
    by_cases hj : j = a
    · simpa [Memory.erase, hj] using ih h.2
    · simp only [Memory.erase, hj, if_false, Memory.above, List.all_cons, Bool.and_eq_true]
      exact ⟨h.1, ih h.2⟩

theorem Memory.above_insert {m : Memory} {k a : Nat} (b : Byte) (ha : k < a) (h : m.above k = true) :
    (m.insert a b).above k = true := by
  induction m with
  | nil => simp [Memory.insert, Memory.above, ha]
  | cons c m ih =>
    obtain ⟨j, v⟩ := c
    simp only [Memory.above, List.all_cons, Bool.and_eq_true] at h
    by_cases hj : a < j
    · simp only [Memory.insert, hj, if_true, Memory.above, List.all_cons, Bool.and_eq_true]
      exact ⟨by simpa using ha, h.1, h.2⟩
    · simp only [Memory.insert, hj, if_false, Memory.above, List.all_cons, Bool.and_eq_true]
      exact ⟨h.1, ih h.2⟩

theorem Memory.above_trans {m : Memory} {j k : Nat} (h : m.above k = true) (hjk : j ≤ k) :
    m.above j = true := by
  simp only [Memory.above, List.all_eq_true, decide_eq_true_eq] at h ⊢
  exact fun c hc => Nat.lt_of_le_of_lt hjk (h c hc)

theorem Memory.wf_erase {m : Memory} (a : Nat) (h : m.wf = true) : (m.erase a).wf = true := by
  induction m with
  | nil => rfl
  | cons c m ih =>
    obtain ⟨k, v⟩ := c
    simp only [Memory.wf, Bool.and_eq_true] at h
    by_cases hk : k = a
    · simpa [Memory.erase, hk] using ih h.2
    · simp only [Memory.erase, hk, if_false, Memory.wf, Bool.and_eq_true]
      exact ⟨⟨h.1.1, Memory.above_erase a h.1.2⟩, ih h.2⟩

/-- No cell at `a`. -/
theorem Memory.erase_noCell (m : Memory) (a : Nat) : ∀ c ∈ m.erase a, c.1 ≠ a := by
  induction m with
  | nil => simp [Memory.erase]
  | cons c m ih =>
    obtain ⟨k, v⟩ := c
    by_cases hk : k = a
    · simpa [Memory.erase, hk] using ih
    · simpa [Memory.erase, hk] using ih

theorem Memory.wf_insert {m : Memory} {a : Nat} {b : Byte} (hb : b ≠ 0#8) (hn : ∀ c ∈ m, c.1 ≠ a)
    (h : m.wf = true) : (m.insert a b).wf = true := by
  induction m with
  | nil => simp [Memory.insert, Memory.wf, Memory.above, hb]
  | cons c m ih =>
    obtain ⟨k, v⟩ := c
    have hka : k ≠ a := hn (k, v) (by simp)
    simp only [Memory.wf, Bool.and_eq_true] at h
    by_cases hk : a < k
    · simp only [Memory.insert, hk, if_true, Memory.wf, Memory.above, List.all_cons, Bool.and_eq_true]
      exact ⟨⟨by simpa using hb, decide_eq_true trivial, Memory.above_trans h.1.2 (Nat.le_of_lt hk)⟩,
        ⟨h.1.1, h.1.2⟩, h.2⟩
    · simp only [Memory.insert, hk, if_false, Memory.wf, Bool.and_eq_true]
      exact ⟨⟨h.1.1, Memory.above_insert b (by omega) h.1.2⟩, ih (fun c hc => hn c (by simp [hc])) h.2⟩

/-- A byte write keeps the canonical form. -/
theorem Memory.wf_write {m : Memory} (a : Nat) (b : Byte) (h : m.wf = true) : (m.write a b).wf = true := by
  unfold Memory.write
  split
  · exact Memory.wf_erase a h
  · next hb => exact Memory.wf_insert hb (Memory.erase_noCell m a) (Memory.wf_erase a h)

theorem Memory.mem_erase {m : Memory} {a : Nat} {c : Host.Cell} (h : c ∈ m.erase a) : c ∈ m := by
  induction m with
  | nil => simp [Memory.erase] at h
  | cons d m ih =>
    obtain ⟨k, v⟩ := d
    by_cases hk : k = a
    · rw [Memory.erase, if_pos hk] at h
      exact List.mem_cons_of_mem _ (ih h)
    · rw [Memory.erase, if_neg hk] at h
      rcases List.mem_cons.mp h with rfl | h
      · simp
      · exact List.mem_cons_of_mem _ (ih h)

theorem Memory.mem_insert {m : Memory} {a : Nat} {b : Byte} {c : Host.Cell} (h : c ∈ m.insert a b) :
    c = (a, b) ∨ c ∈ m := by
  induction m with
  | nil => simpa [Memory.insert] using h
  | cons d m ih =>
    obtain ⟨k, v⟩ := d
    by_cases hk : a < k
    · simpa [Memory.insert, hk] using h
    · rw [Memory.insert, if_neg hk] at h
      rcases List.mem_cons.mp h with rfl | h
      · simp
      · rcases ih h with h | h
        · exact .inl h
        · exact .inr (List.mem_cons_of_mem _ h)

/-- A byte write inside the BM window keeps the memory inside it. -/
theorem Memory.inWindow_write {m : Memory} {a : Nat} (b : Byte) (ha : Config.bmBase ≤ a)
    (ha' : a < Config.bmBase + Config.bmBits / 8) (h : m.inWindow = true) :
    (m.write a b).inWindow = true := by
  simp only [Memory.inWindow, List.all_eq_true, Bool.and_eq_true, decide_eq_true_eq] at h ⊢
  intro c hc
  unfold Memory.write at hc
  split at hc
  · exact h c (Memory.mem_erase hc)
  · rcases Memory.mem_insert hc with rfl | hc
    · exact ⟨ha, ha'⟩
    · exact h c (Memory.mem_erase hc)

/-! ## Bits -/

theorem getLsbD_putBit {w : Nat} (v : BitVec w) (i j : Nat) (b : Bool) (hi : i < w) :
    (putBit v i b).getLsbD j = if j = i then b else v.getLsbD j := by
  by_cases hj : j < w
  · unfold putBit
    cases b <;> by_cases h : j = i
    · subst h; simp [hj]
    · have : ¬ (j < i) → ¬ (j - i = 0) := by omega
      by_cases h2 : j < i <;> simp [h, hj, h2]
      intro _; omega
    · subst h; simp [hj]
    · by_cases h2 : j < i <;> simp [h, hj, h2]
      intro h3; omega
  · have hji : j ≠ i := by omega
    have hw : w ≤ j := by omega
    simp [hji, BitVec.getLsbD_of_ge _ _ hw]

theorem bitLane_lt (a : Nat) : bitLane a < 8 := Nat.mod_lt _ (by decide)

/-- Two bit addresses share byte and lane only if they are one. -/
theorem bitPlace_inj {a x : Nat} (hb : bitByte x = bitByte a) (hl : bitLane x = bitLane a) : x = a := by
  unfold bitByte at hb
  unfold bitLane at hl
  omega

theorem bmBit_bmPutBit (m : Memory) (a x : Nat) (b : Bool) :
    bmBit (bmPutBit m a b) x = if x = a then b else bmBit m x := by
  unfold bmBit bmPutBit
  rw [Memory.read_write]
  by_cases hb : bitByte x = bitByte a
  · rw [if_pos hb, getLsbD_putBit _ _ _ _ (bitLane_lt a)]
    by_cases h : x = a
    · rw [h, if_pos rfl, if_pos rfl]
    · rw [if_neg (fun hl => h (bitPlace_inj hb hl)), if_neg h, hb]
  · rw [if_neg hb, if_neg (fun h => hb (by rw [h]))]

theorem read_bmPutBit_ne (m : Memory) {a o : Nat} (b : Bool) (h : bitByte a ≠ o) :
    Memory.read (bmPutBit m a b) o = Memory.read m o :=
  Memory.read_write_ne m _ (Ne.symm h)

/-- Every bit of BM after `BMWrite(a, s)` (20_memory.md R85). -/
theorem bmBit_bmWrite (m : Memory) (a x : Nat) (s : Bits) :
    bmBit (bmWrite m a s) x = if a ≤ x ∧ x < a + s.length then s.getD (x - a) false else bmBit m x := by
  induction s generalizing m a with
  | nil =>
    have : ¬ (a ≤ x ∧ x < a + 0) := by omega
    simp only [bmWrite, List.length_nil, if_neg this]
  | cons b s ih =>
    rw [bmWrite, ih, bmBit_bmPutBit]
    by_cases h1 : a + 1 ≤ x ∧ x < a + 1 + s.length
    · have h2 : a ≤ x ∧ x < a + (b :: s).length := by simp only [List.length_cons]; omega
      have h3 : x - a = (x - (a + 1)) + 1 := by omega
      rw [if_pos h1, if_pos h2, h3, List.getD_cons_succ]
    · rw [if_neg h1]
      by_cases hx : x = a
      · subst hx
        simp
      · have h2 : ¬ (a ≤ x ∧ x < a + (b :: s).length) := by simp only [List.length_cons]; omega
        rw [if_neg hx, if_neg h2]

/-- A byte of BM that holds no bit of the range is left alone by `BMWrite` (R85). -/
theorem read_bmWrite_ne (m : Memory) (a o : Nat) (s : Bits)
    (h : ∀ x, a ≤ x → x < a + s.length → bitByte x ≠ o) :
    Memory.read (bmWrite m a s) o = Memory.read m o := by
  induction s generalizing m a with
  | nil => rfl
  | cons b s ih =>
    rw [bmWrite, ih _ _ (fun x hx hx' => h x (by omega) (by simp only [List.length_cons]; omega)),
      read_bmPutBit_ne m b (h a (Nat.le_refl a) (by simp))]

/-- What `BMWrite` leaves alone. -/
theorem onlyBitsWritten_bmWrite (m : Memory) (a : Nat) (s : Bits) :
    onlyBitsWritten m (bmWrite m a s) a s.length := by
  refine ⟨fun x hx => ?_, fun o ho => read_bmWrite_ne m a o s ho⟩
  rw [bmBit_bmWrite, if_neg (by omega)]

@[simp] theorem length_bmRead (m : Memory) (a n : Nat) : (bmRead m a n).length = n := by simp [bmRead]

@[simp] theorem getD_bmRead (m : Memory) (a n i : Nat) (h : i < n) :
    (bmRead m a n).getD i false = bmBit m (a + i) := by
  simp [bmRead, h, List.getD]

/-- `BMRead` of a range just written gives the bits written (R84, R85). -/
theorem bmRead_bmWrite_self (m : Memory) (a : Nat) (s : Bits) : bmRead (bmWrite m a s) a s.length = s := by
  apply List.ext_getElem
  · simp
  · intro i h1 h2
    simp only [bmRead, List.getElem_map, List.getElem_range, bmBit_bmWrite]
    rw [if_pos (by omega), Nat.add_sub_cancel_left]
    simp [List.getD, h2]

/-- `BMRead` of a range that a store leaves alone is unchanged. -/
theorem bmRead_of_onlyBitsWritten {m m' : Memory} {d n a k : Nat} (h : onlyBitsWritten m m' d n)
    (hd : a + k ≤ d ∨ d + n ≤ a) : bmRead m' a k = bmRead m a k := by
  unfold bmRead
  apply List.map_congr_left
  intro i hi
  exact h.1 (a + i) (by have := List.mem_range.mp hi; omega)

/-! ## The canonical form under bit and word stores -/

theorem wf_bmPutBit {m : Memory} (a : Nat) (b : Bool) (h : Memory.wf m = true) :
    Memory.wf (bmPutBit m a b) = true :=
  Memory.wf_write _ _ h

theorem wf_bmWrite {m : Memory} (a : Nat) (s : Bits) (h : Memory.wf m = true) :
    Memory.wf (bmWrite m a s) = true := by
  induction s generalizing m a with
  | nil => exact h
  | cons b s ih => exact ih (a + 1) (wf_bmPutBit a b h)

theorem wf_bmPutWord {m : Memory} (w : Nat) (v : Word) (h : Memory.wf m = true) :
    Memory.wf (bmPutWord m w v) = true :=
  Memory.wf_write _ _ (Memory.wf_write _ _ (Memory.wf_write _ _ (Memory.wf_write _ _ h)))

theorem bitByte_bounds {a : Nat} (h : a < Config.bmBits) :
    Config.bmBase ≤ bitByte a ∧ bitByte a < Config.bmBase + Config.bmBits / 8 := by
  simp only [bitByte, Config.bmBase, Config.bmBits] at *
  omega

theorem inWindow_bmWrite {m : Memory} (a : Nat) (s : Bits) (hr : a + s.length ≤ Config.bmBits)
    (h : Memory.inWindow m = true) : Memory.inWindow (bmWrite m a s) = true := by
  induction s generalizing m a with
  | nil => exact h
  | cons b s ih =>
    simp only [List.length_cons] at hr
    have hb := bitByte_bounds (show a < Config.bmBits by omega)
    exact ih (a + 1) (by omega) (Memory.inWindow_write _ hb.1 hb.2 h)

theorem inWindow_bmPutWord {m : Memory} {w : Nat} (v : Word) (hw : w < 256)
    (h : Memory.inWindow m = true) : Memory.inWindow (bmPutWord m w v) = true := by
  have hc : Config.bmBase + Config.bmBits / 8 = Config.bmBase + 1024 := rfl
  unfold bmPutWord
  refine Memory.inWindow_write _ (by omega) (by omega) ?_
  refine Memory.inWindow_write _ (by omega) (by omega) ?_
  refine Memory.inWindow_write _ (by omega) (by omega) ?_
  exact Memory.inWindow_write _ (by omega) (by omega) h

/-- The memory after reset has the canonical form. -/
theorem reset_memory_wf : Memory.wf State.reset.bm = true := rfl

theorem validRange_iff {a n : Nat} : validRange a n = true ↔ a ≤ Config.bmBits ∧ a + n ≤ Config.bmBits := by
  simp only [validRange, Bool.and_eq_true, decide_eq_true_eq]
  omega

end Sys2Proof.Machine
end

