-- ==== Sys2Proof/Laws/Ops.lean ====
section
/-! SUPPORT. What each shared operation can do, said once: the checks of a command, its two completions, the register files,
numbers and bit vectors, and the host's part of a cycle. -/

namespace Sys2Proof.Machine

/-! ## Checks and completions -/

@[simp] theorem firstFailure_nil : firstFailure [] = none := rfl

@[simp] theorem firstFailure_cons_true (e : CmdError) (cs : List (Bool × CmdError)) :
    firstFailure ((true, e) :: cs) = firstFailure cs := rfl

@[simp] theorem firstFailure_cons_false (e : CmdError) (cs : List (Bool × CmdError)) :
    firstFailure ((false, e) :: cs) = some e := rfl

/-- No error is reported exactly when every check holds. -/
theorem firstFailure_eq_none {cs : List (Bool × CmdError)} :
    firstFailure cs = none ↔ ∀ c ∈ cs, c.1 = true := by
  induction cs with
  | nil => simp
  | cons c cs ih =>
    obtain ⟨ok, e⟩ := c
    cases ok <;> simp [ih]

/-- The error reported is one of the listed checks, and every check before it holds (60_exceptions.md R303). -/
theorem firstFailure_eq_some {cs : List (Bool × CmdError)} {e : CmdError} :
    firstFailure cs = some e ↔
      ∃ before after, cs = before ++ (false, e) :: after ∧ ∀ c ∈ before, c.1 = true := by
  induction cs with
  | nil => simp
  | cons c cs ih =>
    obtain ⟨ok, x⟩ := c
    cases ok with
    | false =>
      simp only [firstFailure_cons_false, Option.some.injEq]
      constructor
      · rintro rfl
        exact ⟨[], cs, rfl, by simp⟩
      · rintro ⟨before, after, h, hb⟩
        cases before with
        | nil => simpa using (List.cons.inj h).1
        | cons b bs =>
          have := hb b (by simp)
          rw [← (List.cons.inj h).1] at this
          simp at this
    | true =>
      rw [firstFailure_cons_true, ih]
      constructor
      · rintro ⟨before, after, rfl, hb⟩
        exact ⟨(true, x) :: before, after, rfl, by simpa using hb⟩
      · rintro ⟨before, after, h, hb⟩
        cases before with
        | nil => simp at h
        | cons b bs => exact ⟨bs, after, (List.cons.inj h).2, fun c hc => hb c (by simp [hc])⟩

theorem runCommand_of_checks {i : Instr} {cs : List (Bool × CmdError)} {ch s : State} {r : Results}
    (h : firstFailure cs = none) : runCommand i cs ch r s = .next (ch.complete i.opcode r) := by
  simp [runCommand, h]

theorem runCommand_of_failure {i : Instr} {cs : List (Bool × CmdError)} {ch s : State} {r : Results}
    {e : CmdError} (h : firstFailure cs = some e) :
    runCommand i cs ch r s = .next (s.raiseError i.opcode e) := by
  simp [runCommand, h]

/-- All a command can do: complete with its changes, or be turned away with none (60_exceptions.md R300, R301). -/
theorem runCommand_cases (i : Instr) (cs : List (Bool × CmdError)) (ch : State) (r : Results) (s : State) :
    (firstFailure cs = none ∧ runCommand i cs ch r s = .next (ch.complete i.opcode r)) ∨
    ∃ e, firstFailure cs = some e ∧ runCommand i cs ch r s = .next (s.raiseError i.opcode e) := by
  cases h : firstFailure cs with
  | none => exact .inl ⟨rfl, runCommand_of_checks h⟩
  | some e => exact .inr ⟨e, rfl, runCommand_of_failure h⟩

/-- Every meaning is one `runCommand`. -/
theorem exec_eq_runCommand (i : Instr) (s : State) :
    ∃ cs ch r, exec i s = runCommand i cs ch r s := by
  cases i <;>
    simp only [exec, execNop, execCorrClear, execCorrPush, execCorrScore, execFrmReset, execFrmPushbit,
      execFrmPushrange, execFrmAck, execBvCopy, execVitGentab, execVitEncode, execVitDecode, execBchEncode,
      execBchDecode, execCrcGen, execCrcVerify] <;>
    exact ⟨_, _, _, rfl⟩

theorem CmdError.code_ne_zero (e : CmdError) : e.code ≠ 0#4 := by cases e <;> decide

theorem CmdError.code_le (e : CmdError) : e.code.toNat ≤ 5 := by cases e <;> decide

/-! ## Register files -/

@[simp] theorem slot_putSlot_self {α : Type} {n : Nat} (v : Vector α n) {i : Nat} (x d : α) (h : i < n) :
    slot (putSlot v i x) i d = x := by
  simp [slot, putSlot, h]

theorem slot_putSlot_ne {α : Type} {n : Nat} (v : Vector α n) {i j : Nat} (x d : α) (h : j ≠ i) :
    slot (putSlot v i x) j d = slot v j d := by
  unfold slot putSlot
  by_cases hi : i < n
  · by_cases hj : j < n
    · simp [hi, hj, Vector.getElem_set_ne _ _ (Ne.symm h)]
    · simp [hj]
  · simp [hi]

@[simp] theorem slot_replicate {α : Type} (n i : Nat) (d : α) : slot (Vector.replicate n d) i d = d := by
  by_cases h : i < n <;> simp [slot, h]

/-! ## Numbers and bit vectors -/

@[simp] theorem length_bitsOf (n v : Nat) : (bitsOf n v).length = n := by simp [bitsOf]

theorem getD_bitsOf {n v i : Nat} (h : i < n) : (bitsOf n v).getD i false = v.testBit (n - 1 - i) := by
  simp [bitsOf, h, List.getD]

/-- The fold of `num`, from any start. -/
theorem foldl_num (acc : Nat) (b : Bits) :
    b.foldl (fun acc x => 2 * acc + x.toNat) acc = acc * 2 ^ b.length + num b := by
  induction b generalizing acc with
  | nil => simp [num]
  | cons x b ih =>
    simp only [List.foldl_cons, num, List.length_cons]
    rw [ih, ih (2 * 0 + x.toNat), Nat.pow_succ]
    simp only [num]
    ring

@[simp] theorem num_nil : num [] = 0 := rfl

theorem num_cons (x : Bool) (b : Bits) : num (x :: b) = x.toNat * 2 ^ b.length + num b := by
  show List.foldl _ (2 * 0 + x.toNat) b = _
  rw [foldl_num]; simp

theorem num_append (a b : Bits) : num (a ++ b) = num a * 2 ^ b.length + num b := by
  unfold num
  rw [List.foldl_append]
  exact foldl_num _ b

theorem num_lt (b : Bits) : num b < 2 ^ b.length := by
  induction b with
  | nil => simp
  | cons x b ih =>
    rw [num_cons, List.length_cons, Nat.pow_succ]
    cases x <;> simp <;> omega

/-- Bit `j` of `num b` is the element `j` places before the last. -/
theorem testBit_num (b : Bits) (j : Nat) : (num b).testBit j = if j < b.length then b.getD (b.length - 1 - j) false else false := by
  induction b with
  | nil => simp
  | cons x b ih =>
    have hlt := num_lt b
    rw [num_cons, Nat.mul_comm, Nat.testBit_two_pow_mul_add _ hlt, ih]
    by_cases h : j < b.length
    · have h1 : j < (x :: b).length := by simp only [List.length_cons]; omega
      have h2 : (x :: b).length - 1 - j = (b.length - 1 - j) + 1 := by simp only [List.length_cons]; omega
      rw [if_pos h, if_pos h, if_pos h1, h2, List.getD_cons_succ]
    · rw [if_neg h]
      by_cases h3 : j = b.length
      · subst h3; cases x <;> simp
      · have h1 : ¬ j < (x :: b).length := by simp only [List.length_cons]; omega
        obtain ⟨k, hk⟩ : ∃ k, j - b.length = k + 1 := ⟨j - b.length - 1, by omega⟩
        rw [if_neg h1, hk]
        cases x <;> simp [Nat.testBit_succ]

/-- Writing a number as `n` bits and reading it back keeps its low `n` bits. -/
theorem num_bitsOf (n v : Nat) : num (bitsOf n v) = v % 2 ^ n := by
  apply Nat.eq_of_testBit_eq
  intro j
  rw [testBit_num, length_bitsOf, Nat.testBit_mod_two_pow]
  by_cases h : j < n
  · rw [if_pos h, getD_bitsOf (by omega)]
    have : n - 1 - (n - 1 - j) = j := by omega
    simp [this, h]
  · simp [h]

/-- Reading a vector as a number and writing it back gives the vector. -/
theorem bitsOf_num (b : Bits) : bitsOf b.length (num b) = b := by
  apply List.ext_getElem (by simp)
  intro i h1 h2
  simp only [bitsOf, List.getElem_map, List.getElem_range, testBit_num]
  have : b.length - 1 - (b.length - 1 - i) = i := by omega
  rw [if_pos (by omega), this]
  simp [List.getD, h2]

@[simp] theorem length_groups (k t : Nat) (b : Bits) : (groups k t b).length = t := by
  induction t generalizing b with
  | zero => rfl
  | succ t ih => simp [groups, ih]

@[simp] theorem length_flipAt (z : Bits) (p : Nat) : (flipAt z p).length = z.length := by simp [flipAt]

/-! ## Lengths of what the units write -/

theorem length_encodeFrom (v : Vit) (s : Nat) (us : List Nat) :
    (v.encodeFrom s us).code.length = us.length * v.nBits := by
  induction us generalizing s with
  | nil => simp [Vit.encodeFrom]
  | cons u us ih =>
    rw [Vit.encodeFrom, List.length_append, length_bitsOf, ih, List.length_cons]
    ring

theorem length_enc (v : Vit) (b : Bits) : (v.enc b).code.length = b.length / v.kBits * v.nBits := by
  simp [Vit.enc, length_encodeFrom]

theorem length_backtrace (rows : List (List (Nat × Nat))) (s : Nat) (us : List Nat) :
    (backtrace rows s us).length = rows.length + us.length := by
  induction rows generalizing s us with
  | nil => simp [backtrace]
  | cons row rows ih => rw [backtrace, ih]; simp only [List.length_cons]; omega

theorem length_forward (v : Vit) (rs : List Nat) (fw : Forward) :
    (v.forward rs fw).survivors.length = rs.length + fw.survivors.length := by
  induction rs generalizing fw with
  | nil => simp [Vit.forward]
  | cons r rs ih => rw [Vit.forward, ih]; simp only [List.length_cons]; omega

theorem length_decodeGroups (v : Vit) (rs : List Nat) : (v.decodeGroups rs).inputs.length = rs.length := by
  simp [Vit.decodeGroups, length_backtrace, length_forward]

theorem length_flatMap_bitsOf (k : Nat) (us : List Nat) : (us.flatMap (bitsOf k)).length = us.length * k := by
  induction us with
  | nil => simp
  | cons u us ih => rw [List.flatMap_cons, List.length_append, length_bitsOf, ih, List.length_cons]; ring

theorem length_flipPositions (r : Bits) (ps : List Nat) : (flipPositions r ps).length = r.length := by
  induction ps generalizing r with
  | nil => rfl
  | cons p ps ih =>
    show (flipPositions (flipAt r (62 - p)) ps).length = r.length
    rw [ih, length_flipAt]

theorem length_bchdec (r : Bits) (t : Nat) : (bchdec r t).word.length = r.length := by
  unfold bchdec
  simp only
  split
  · rfl
  · split
    · rfl
    · split
      · rfl
      · split
        · exact length_flipPositions _ _
        · rfl

theorem length_bchenc (g d : Nat) (m : Bits) : (bchenc g d m).length = 63 := length_bitsOf _ _

@[simp] theorem length_frameBits (f : Framer) : f.frameBits.length = f.total := by simp [Framer.frameBits]

/-! ## Cycles -/

@[simp] theorem andThen_next (s : State) (f : State → StepResult) : andThen (.next s) f = f s := rfl

theorem runWord_of_decode {w : Word} {i : Instr} (s : State) (h : decode w = .ok i) :
    runWord w s = exec i s := by simp [runWord, h]

/-- A command in progress always comes to a next state: no command stops the machine. -/
theorem runWord_next (w : Word) (s : State) : ∃ t, runWord w s = .next t := by
  unfold runWord
  split
  · next i _ =>
    obtain ⟨cs, ch, r, h⟩ := exec_eq_runCommand i s
    rcases runCommand_cases i cs ch r s with ⟨_, h'⟩ | ⟨e, _, h'⟩
    · exact ⟨_, h.trans h'⟩
    · exact ⟨_, h.trans h'⟩
  · exact ⟨_, rfl⟩

end Sys2Proof.Machine
end

