-- ==== Sys2Proof/Laws/PerInstr.lean ====
section
/-! SUPPORT. Statements for all instructions, one lemma per constructor. `EncodedWord`: the encoder's word is legal by the
description of 30_encoding.md R110 and R115 that does not use the decoder's table, and carries the command's opcode. -/

namespace Sys2Proof.Laws.EncodedWord

/-- The word of `i` is legal and holds its OPC. -/
def Statement (i : Instr) : Prop := legalWord (encode i) = true ∧ opcOf (encode i) = i.opcode

theorem nop : Statement .nop := ⟨by decide, by decide⟩
theorem corrClear : Statement .corrClear := ⟨by decide, by decide⟩
theorem corrPush : Statement .corrPush := ⟨by decide, by decide⟩
theorem corrScore : Statement .corrScore := ⟨by decide, by decide⟩
theorem frmReset : Statement .frmReset := ⟨by decide, by decide⟩
theorem frmPushbit (bit : Bool) : Statement (.frmPushbit bit) := by cases bit <;> exact ⟨by decide, by decide⟩
theorem frmPushrange : Statement .frmPushrange := ⟨by decide, by decide⟩
theorem frmAck : Statement .frmAck := ⟨by decide, by decide⟩
theorem bvCopy : Statement .bvCopy := ⟨by decide, by decide⟩
theorem vitGentab : Statement .vitGentab := ⟨by decide, by decide⟩
theorem vitEncode : Statement .vitEncode := ⟨by decide, by decide⟩
theorem vitDecode : Statement .vitDecode := ⟨by decide, by decide⟩
theorem bchEncode : Statement .bchEncode := ⟨by decide, by decide⟩
theorem bchDecode : Statement .bchDecode := ⟨by decide, by decide⟩
theorem crcGen : Statement .crcGen := ⟨by decide, by decide⟩
theorem crcVerify : Statement .crcVerify := ⟨by decide, by decide⟩

end Sys2Proof.Laws.EncodedWord
end

