-- ==== Sys2Proof/Tests/Slice0.lean ====
section
/-! SUPPORT. Tests of the model on small states: expected values are those of spec/95_test_vectors.md (each test names its
vector) or of the rule named, never the model's own answers. Then, for every statement with hypotheses, a state that meets
them. -/

set_option Elab.async false

namespace Sys2Proof.Tests

open Sys2Proof.Machine

/-! ## Helpers -/

/-- The state of a next outcome. -/
def after (r : StepResult) : State :=
  match r with
  | .next t => t
  | .fault _ => State.reset
  | .refused _ => State.reset

/-- RES0..RES3. -/
def results (s : State) : List Word := [s.res.res0, s.res.res1, s.res.res2, s.res.res3]

/-- ARG0..ARG2 set. -/
def args (a n d : Nat) (s : State) : State := s.withArgs ⟨word a, word n, word d⟩

/-- BM with the bits of `b` at `a`. -/
def bits (a : Nat) (b : List Nat) (s : State) : State := s.withBm (bmWrite s.bm a (b.map (· == 1)))

/-- BM read as 0s and 1s. -/
def see (s : State) (a n : Nat) : List Nat := (bmRead s.bm a n).map Bool.toNat

/-- A correlator of three symbols with reference 1.0, 2.0, 3.0. -/
def corr123 : State :=
  State.reset.withCorr
    { State.reset.corr with
      len := 3#7
      ref := putSlot (putSlot (putSlot State.reset.corr.ref 0 0x3F800000#32) 1 0x40000000#32) 2 0x40400000#32 }

/-- The same after the pushes 1.0, 2.0, 3.0 (K1). -/
def corrPushed : State :=
  corr123.withCorr
    { corr123.corr with
      symbuf :=
        putSlot (putSlot (putSlot corr123.corr.symbuf 0 0x3F800000#32) 1 0x40000000#32) 2 0x40400000#32 }

/-- The framer of the common setting of the framer vectors: pattern 0x2D, L = 8, FL = 4, FRM_DST = 1000. -/
def framer2D : State :=
  State.reset.withFrm
    { State.reset.frm with patLo := 0x2D#32, patLen := 8#7, flen := 4#13, dst := 1000#32 }

/-- After the first seven bits 0,0,1,0,1,1,0 of F1. -/
def framerBefore : State :=
  framer2D.withFrm { framer2D.frm with hist := 0x16#64, hfill := 7#7, bitCount := 7#32 }

/-- After F1 and the first three bits 1,0,0 of F2. -/
def framerCapturing : State :=
  framer2D.withFrm
    { framer2D.frm with
      hist := 0x16C#64, hfill := 11#7, bitCount := 11#32, fstate := .capturing, cap := 1#4096, cc := 3#13
      tsPend := 8#32 }

/-- The framer of F6: pattern 1011, L = 4, PREEMPT = 1, INCSYNC = 1, PATID 0x5A, FL = 6, FRM_DST = 2000. -/
def framer1011 : State :=
  State.reset.withFrm
    { State.reset.frm with
      patLo := 0xB#32, patLen := 4#7, preempt := true, incSync := true, patId := 0x5A#8, flen := 6#13
      dst := 2000#32 }

/-- The Viterbi setting V: K = 1, N = 2, M = 2, generators 7 and 5, before VIT_GENTAB. -/
def vit75 : State :=
  State.reset.withVit { State.reset.vit with k := 1#3, n := 2#3, m := 2#3, g0 := 7#7, g1 := 5#7 }

/-- The table of V1, written entry by entry from the vector. -/
def vit75Table : State :=
  vit75.withVit
    { vit75.vit with
      tab :=
        [(1, ⟨2#6, 3#4⟩), (8, ⟨0#6, 3#4⟩), (9, ⟨2#6, 0#4⟩), (16, ⟨1#6, 2#4⟩), (17, ⟨3#6, 1#4⟩), (24, ⟨1#6, 1#4⟩),
          (25, ⟨3#6, 2#4⟩)].foldl (fun t (p : Nat × VitEntry) => putSlot t p.1 p.2) vit75.vit.tab }

/-- CRC of width 3, P = 0b011, TRIAL as given. -/
def crc3 (trial : BitVec 2) : State := State.reset.withCrc { State.reset.crc with w := 3#6, trial := trial, poly := 3#32 }

/-- The BCH unit with t = 2 and a 63-bit word at BM[0..62]. -/
def bch2 (w : Nat) : State :=
  args 0 63 0 ((State.reset.withBch { State.reset.bch with t := 2#4 }).withBm (bmWrite [] 0 (bitsOf 63 w)))

/-- A command in progress with `left` further cycles, and the host's transactions. -/
def running (w : Word) (left : Nat) (h : List HostOp) (s : State) : State :=
  (s.withInFlight (some ⟨w, left⟩)).withHost h

/-! ## Decoding: words written out from 30_encoding.md R110 to R114 -/

theorem test_decode_nop : decode 0b00000000000000000000000000000000#32 = .ok .nop := by decide
theorem test_decode_corrClear : decode 0b00000000000000000000000000000001#32 = .ok .corrClear := by decide
theorem test_decode_corrPush : decode 0b00000000000000000000000000000010#32 = .ok .corrPush := by decide
theorem test_decode_corrScore : decode 0b00000000000000000000000000000011#32 = .ok .corrScore := by decide
theorem test_decode_frmReset : decode 0b00000000000000000000000000010000#32 = .ok .frmReset := by decide
theorem test_decode_frmPushbit0 : decode 0b00000000000000000000000000010001#32 = .ok (.frmPushbit false) := by decide
theorem test_decode_frmPushbit1 : decode 0b00000000000000000000000100010001#32 = .ok (.frmPushbit true) := by decide
theorem test_decode_frmPushrange : decode 0b00000000000000000000000000010010#32 = .ok .frmPushrange := by decide
theorem test_decode_frmAck : decode 0b00000000000000000000000000010011#32 = .ok .frmAck := by decide
theorem test_decode_bvCopy : decode 0b00000000000000000000000000100000#32 = .ok .bvCopy := by decide
theorem test_decode_vitGentab : decode 0b00000000000000000000000000110000#32 = .ok .vitGentab := by decide
theorem test_decode_vitEncode : decode 0b00000000000000000000000000110001#32 = .ok .vitEncode := by decide
theorem test_decode_vitDecode : decode 0b00000000000000000000000000110010#32 = .ok .vitDecode := by decide
theorem test_decode_bchEncode : decode 0b00000000000000000000000001000000#32 = .ok .bchEncode := by decide
theorem test_decode_bchDecode : decode 0b00000000000000000000000001000001#32 = .ok .bchDecode := by decide
theorem test_decode_crcGen : decode 0b00000000000000000000000001010000#32 = .ok .crcGen := by decide
theorem test_decode_crcVerify : decode 0b00000000000000000000000001010001#32 = .ok .crcVerify := by decide

/-- Undefined opcodes of R115 at the edges of its gaps. -/
theorem test_decode_undefined :
    [0x04#32, 0x0F, 0x14, 0x1F, 0x21, 0x2F, 0x33, 0x3F, 0x42, 0x4F, 0x52, 0xFF].all
      (fun w => decode w == .error (.undefinedOpcode (w.setWidth 8))) = true := by decide
/-- E2 and E3: a reserved bit set. -/
theorem test_decode_reserved :
    decode 0x00000102#32 = .error (.reservedBitSet 0x00000102#32)
    ∧ decode 0x80000011#32 = .error (.reservedBitSet 0x80000011#32) := by decide

/-- No two rows of the table of R114 share a word. -/
theorem test_table_unambiguous :
    (opcodeTable.map fun r => opcOf r.pattern).Nodup := by decide

/-! ## Well-formedness: one ill-formed word for each check -/

theorem test_wellFormed_opcode : opcodeDefined 0x00000004#32 = false := by decide
theorem test_wellFormed_reservedN : reservedBitsZero 0x00000102#32 = false := by decide
theorem test_wellFormed_reservedB : reservedBitsZero 0x80000011#32 = false := by decide
theorem test_wellFormed_word :
    legalWord 0x00000004#32 = false ∧ legalWord 0x00000102#32 = false ∧ legalWord 0x00000111#32 = true := by decide
/-- The host's transactions are whole words (20_memory.md R80): a narrower one is refused by name. -/
theorem test_narrow_refused :
    (match step (State.reset.withHost [.narrow 0x010#12]) with
      | .refused (.narrowAccess off) => off == 0x010#12
      | _ => false) = true := by decide

/-! ## Bit-vector commands -/

/-- E4. -/
theorem test_nop_status : (after (exec .nop State.reset)).statusWord = 0x00000002#32 := by decide
/-- B1. -/
theorem test_bvCopy_overlap_up :
    see (after (exec .bvCopy (args 0 8 4 (bits 0 [1, 0, 1, 1, 0, 0, 1, 0] State.reset)))) 0 12
      = [1, 0, 1, 1, 1, 0, 1, 1, 0, 0, 1, 0] := by decide +kernel
/-- B2. -/
theorem test_bvCopy_range :
    (after (exec .bvCopy (args 8190 3 0 State.reset))).statusWord = 0x00200406#32 := by decide +kernel

/-! ## Correlator -/

/-- K1, fourth push. -/
theorem test_corrPush_fourth :
    results (after (exec .corrPush (args 0x40800000 0 0 corrPushed))) = [0x41A00000#32, 0#32, 1#32, 0#32] := by
  decide +kernel
/-- K9: an infinite reference over a cleared slot. -/
theorem test_corrPush_nan :
    (after (exec .corrPush (args 0x3F800000 0 0
      (corr123.withCorr { corr123.corr with ref := putSlot corr123.corr.ref 0 0x7F800000#32 })))).res.res0
      = 0x7FC00000#32 := by decide +kernel
/-- K2, on the window 2.0, 3.0, 4.0 with WP = 1 and REF[0] = 0.0. -/
theorem test_corrScore_rescores :
    (after (exec .corrScore
      (corrPushed.withCorr
        { corrPushed.corr with
          wp := 1#6, ref := putSlot corrPushed.corr.ref 0 0#32
          symbuf := putSlot corrPushed.corr.symbuf 0 0x40800000#32 }))).res.res0 = 0x41900000#32 := by
  decide +kernel
/-- K12. -/
theorem test_corrClear_slots :
    (after (exec .corrClear corrPushed)).corr.symbuf[2] = 0#32 := by decide +kernel
/-- K10. -/
theorem test_corrPush_config :
    (after (exec .corrPush (State.reset.withCorr { State.reset.corr with len := 65#7 }))).statusWord
      = 0x00020206#32 := by decide +kernel
/-- The example of 41_correlator.md R142: 16777216 + 1 rounds to even. -/
theorem test_fadd32_tie : fadd32 0x4B800000#32 0x3F800000#32 = 0x4B800000#32 := by decide +kernel
/-- K4's last addition: 2 + 16777216 is exact. -/
theorem test_fadd32_exact : fadd32 0x40000000#32 0x4B800000#32 = 0x4B800001#32 := by decide +kernel
/-- R141: the least subnormal halved ties to even, to a signed zero, and doubled is exact. -/
theorem test_fmul32_subnormal :
    fmul32 0x80000001#32 0x3F000000#32 = 0x80000000#32 ∧ fmul32 0x00000001#32 0x40000000#32 = 0x00000002#32 := by
  decide +kernel
/-- R141: overflow of the largest finite value, and the invalid product. -/
theorem test_fmul32_special :
    fmul32 0x7F7FFFFF#32 0xC0000000#32 = 0xFF800000#32 ∧ fmul32 0x00000000#32 0xFF800000#32 = 0x7FC00000#32 := by
  decide +kernel
/-- R141: the sums of zeros and of opposite infinities. -/
theorem test_fadd32_special :
    fadd32 0x80000000#32 0x80000000#32 = 0x80000000#32 ∧ fadd32 0x80000000#32 0x00000000#32 = 0x00000000#32
    ∧ fadd32 0x7F800000#32 0xFF800000#32 = 0x7FC00000#32 := by decide +kernel
/-- R143: equal values, both zeros, and a NaN are not greater; K6. -/
theorem test_fgt32 :
    fgt32 0x00000000#32 0x80000000#32 = false ∧ fgt32 0x7F800000#32 0x7F800000#32 = false
    ∧ fgt32 0x7FC00000#32 0xFF800000#32 = false ∧ fgt32 0xBF800000#32 0xC0000000#32 = true := by decide +kernel

/-! ## Framer -/

/-- F1, eighth bit. -/
theorem test_frmPushbit_sync :
    let t := after (exec (.frmPushbit true) framerBefore)
    results t = [1#32, 1#32, 0#32, 0#32] ∧ t.frm.fstate = .capturing ∧ t.frm.tsPend = 8#32 := by decide +kernel
/-- F2, fourth bit. -/
theorem test_frmPushbit_frame :
    let t := after (exec (.frmPushbit true) framerCapturing)
    results t = [1#32, 2#32, 5#32, 0#32] ∧ see t 1000 4 = [1, 0, 0, 1] ∧ t.frm.frameTs = 8#32
    ∧ t.statusWord = 0x00110012#32 := by decide +kernel
/-- F6: preemption, sync bits included. -/
theorem test_frmPushrange_preempt :
    let t := after (exec .frmPushrange (args 0 17 0 (bits 0 [1, 0, 1, 1, 0, 0, 1, 0, 1, 1, 0, 0, 0, 0, 0, 0, 1] framer1011)))
    results t = [16#32, 7#32, 3#32, 0#32] ∧ see t 2000 10 = [1, 0, 1, 1, 0, 0, 0, 0, 0, 0]
    ∧ t.frm.frameTs = 10#32 ∧ t.frm.framePatId = 0x5A#8 := by decide +kernel
/-- F9. -/
theorem test_frmPushrange_range :
    (after (exec .frmPushrange (args 8190 3 0 framer2D))).statusWord = 0x00120406#32 := by decide +kernel
/-- F10. -/
theorem test_frmReset_capture :
    let t := after (exec .frmReset framerCapturing)
    t.frm.fstate = .searching ∧ t.frm.cc = 0#13 ∧ t.frm.hist = 0x16C#64 := by decide +kernel
/-- 42_framer.md R175. -/
theorem test_frmAck_clears :
    (after (exec .frmAck (framer2D.withFrameReady true))).statusWord = 0x00130002#32 := by decide +kernel
/-- F3. -/
theorem test_frmPushbit_pending :
    (after (exec (.frmPushbit true) (framer2D.withFrameReady true))).statusWord = 0x00110316#32 := by decide +kernel

/-! ## Viterbi -/

/-- V1. -/
theorem test_vitGentab_table :
    [0, 1, 8, 9, 16, 17, 24, 25].map (fun e => (slot (after (exec .vitGentab vit75)).vit.tab e ⟨0#6, 0#4⟩).toWord)
      = [0x000#32, 0x302#32, 0x300#32, 0x002#32, 0x201#32, 0x103#32, 0x101#32, 0x203#32] := by decide +kernel
/-- V15. -/
theorem test_vitGentab_config :
    (after (exec .vitGentab (vit75.withVit { vit75.vit with g0 := 0xF#7 }))).statusWord = 0x00300206#32 := by
  decide +kernel
/-- V2. -/
theorem test_vitEncode_75 :
    let t := after (exec .vitEncode (args 0 6 100 (bits 0 [1, 0, 1, 1, 0, 0] vit75Table)))
    see t 100 12 = [1, 1, 1, 0, 0, 0, 0, 1, 0, 1, 1, 1] ∧ results t = [12#32, 0#32, 6#32, 0#32] := by decide +kernel
/-- V7: a tie between predecessors. -/
theorem test_vitDecode_tie :
    let t := after (exec .vitDecode (args 0 10 100 (bits 0 [0, 1, 0, 0, 0, 1, 0, 1, 0, 0] vit75Table)))
    see t 100 5 = [0, 0, 0, 0, 0] ∧ results t = [5#32, 3#32, 0#32, 0#32] := by decide +kernel
/-- V5: a truncated bit counts as an error. -/
theorem test_vitDecode_truncation :
    let t := after (exec .vitDecode (args 0 13 100 (bits 0 [1, 1, 1, 0, 0, 0, 0, 1, 0, 1, 1, 1, 0] vit75Table)))
    see t 100 6 = [1, 0, 1, 1, 0, 0] ∧ results t = [6#32, 1#32, 0#32, 1#32] ∧ t.ccnt = 1#32 := by decide +kernel

/-! ## BCH -/

/-- H1. -/
theorem test_bchEncode_word :
    let t := after (exec .bchEncode
      (args 0 16 100 (bits 0 [1, 0, 1, 0, 0, 1, 0, 1, 1, 1, 0, 0, 0, 0, 1, 1] State.reset)))
    num (bmRead t.bm 100 63) = 0x52E1925B04BF12A4 ∧ results t = [63#32, 16#32, 47#32, 0#32] := by decide +kernel
/-- 44_bch.md R223: the first powers of α, and its order. -/
theorem test_alphaPow :
    [0, 1, 2, 3, 4, 5, 6].map alphaPow = [1#6, 2#6, 4#6, 8#6, 16#6, 32#6, 3#6]
    ∧ ((List.range 62).all fun k => alphaPow (k + 1) != 1#6) = true ∧ gfTimesAlpha (alphaPow 62) = 1#6 := by
  decide +kernel
/-- 44_bch.md R223: `gfinv` inverts every element but 0. -/
theorem test_gfinv :
    ((List.range 63).all fun k => gfmul (BitVec.ofNat 6 (k + 1)) (gfinv (BitVec.ofNat 6 (k + 1))) == 1#6) = true := by
  decide +kernel
/-- H2: the first two syndromes of the codeword of H1 with element 5 flipped. -/
theorem test_syndromes :
    syndromes 1 (bitsOf 63 (0x52E1925B04BF12A4 ^^^ 2 ^ 57)) = [62#6, 43#6] := by decide +kernel
/-- H8: two errors, t = 2. -/
theorem test_bchDecode_corrected :
    let t := after (exec .bchDecode (bch2 (0x52E1925B04BF12A4 ^^^ 2 ^ 61 ^^^ 2 ^ 60)))
    results t = [1#32, 2#32, 2#32, 0#32] ∧ num (bmRead t.bm 0 63) = 0x52E1925B04BF12A4 ∧ t.ccnt = 2#32 := by
  decide +kernel
/-- H7: three errors, t = 2. -/
theorem test_bchDecode_failed :
    let t := after (exec .bchDecode (bch2 0x6AE1925B04BF12A4))
    results t = [2#32, 0#32, 2#32, 0#32] ∧ num (bmRead t.bm 0 63) = 0x6AE1925B04BF12A4 := by decide +kernel

/-! ## CRC -/

/-- CR1: "123456789" under CRC-16 with P = 0x1021. -/
theorem test_crcGen_check :
    let s := State.reset.withCrc { State.reset.crc with w := 16#6, trial := 1#2, poly := 0x1021#32 }
    let t := after (exec .crcGen (args 0 72 72
      (s.withBm (bmPutWord (bmPutWord (bmPutWord [] 0 0x31323334#32) 1 0x35363738#32) 2 0x39000000#32))))
    results t = [0x31C3#32, 72#32, 0#32, 0#32] ∧ bmWord t.bm 2 = 0x3931C300#32 := by decide +kernel
/-- CR10: an ambiguous single-flip level. -/
theorem test_crcVerify_ambiguous :
    results (after (exec .crcVerify (args 0 10 10 (bits 0 [0, 1, 0, 1, 0, 0, 0, 0, 0, 1, 1, 1, 0] (crc3 1#2)))))
      = [2#32, 0#32, 0xFFFFFFFF#32, 0xFFFFFFFF#32] := by decide +kernel
/-- CR11: a miscorrection, the single-flip level decides first. -/
theorem test_crcVerify_miscorrects :
    let t := after (exec .crcVerify (args 0 4 4 (bits 0 [0, 0, 0, 1, 0, 0, 1] (crc3 2#2))))
    results t = [1#32, 1#32, 5#32, 0xFFFFFFFF#32] ∧ see t 0 7 = [0, 0, 0, 1, 0, 1, 1] ∧ t.ccnt = 1#32 := by
  decide +kernel
/-- CR16. -/
theorem test_crcGen_overlap :
    (after (exec .crcGen (args 0 72 60
      (State.reset.withCrc { State.reset.crc with w := 16#6, trial := 1#2, poly := 0x1021#32 })))).statusWord
      = 0x00500406#32 := by decide +kernel

/-! ## Steps and the host window -/

/-- E1. -/
theorem test_step_illegal :
    (after (step (running 0x04#32 0 [] State.reset))).statusWord = 0x00040106#32 := by decide +kernel
/-- E9. -/
theorem test_busy_write_dropped :
    let t := after (step (running 0#32 3 [.write 0x010#12 5#32] State.reset))
    t.args.arg0 = 0#32 ∧ t.status.busyErr = true ∧ t.busy = true := by decide +kernel
/-- E10. -/
theorem test_busy_soft_reset :
    let t := after (step (running 0#32 3 [.write 0x004#12 1#32] corrPushed))
    t.busy = false ∧ t.corr.len = 0#7 ∧ t.corr.thresh = 0x7F800000#32 ∧ t.status.done = false ∧ t.host = [] := by
  decide +kernel
/-- 70_reset_and_hazards.md R330: the reset input, during BUSY. -/
theorem test_hard_reset :
    let t := after (step (running 0#32 3 [.hardReset] corrPushed))
    t.busy = false ∧ t.corr.len = 0#7 ∧ t.corr.thresh = 0x7F800000#32 ∧ t.host = [] := by decide +kernel
/-- P4: CTRL.IE_ERR raises STATUS.IRQ. -/
theorem test_irq :
    (after (step ((after (exec .corrPush State.reset)).withHost [.write 0x004#12 4#32]))).statusWord
      = 0x00020286#32 := by decide +kernel
/-- B5. -/
theorem test_bmWord_write :
    see (after (step (State.reset.withHost [.write 0x40C#12 0x80000001#32]))) 96 32
      = 1 :: List.replicate 30 0 ++ [1] := by decide +kernel
/-- R80: offset bits [1:0] are ignored; R45: the fields of FRM_CFG (0x5A030004 of F6). -/
theorem test_frmCfg_write :
    let t := after (step (State.reset.withHost [.write 0x06B#12 0x5A030004#32]))
    t.frm.patLen = 4#7 ∧ t.frm.preempt = true ∧ t.frm.incSync = true ∧ t.frm.patId = 0x5A#8
    ∧ t.frm.maxErr = 0#6 := by decide +kernel
/-- 20_memory.md R83: a host read of bits as the commands write them. -/
theorem test_bmWord_read :
    (after (step ((bits 96 [1, 0, 0, 0, 0, 0, 0, 1] State.reset).withHost [.read 0x40C#12]))).rdata
      = some 0x81000000#32 := by decide +kernel
/-- `wait` stays while BUSY and ends when STATUS reads BUSY = 0 (30_encoding.md R117). -/
theorem test_wait :
    (after (step (running 0#32 2 [.wait] State.reset))).host = [.wait]
    ∧ (after (step (running 0#32 0 [.wait] State.reset))).host = []
    ∧ (after (step (running 0#32 0 [.wait] State.reset))).rdata = some 2#32 := by decide +kernel
/-- The first word placed after reset is decoded and run by the next step. -/
theorem test_placed_word :
    decodeTableWord 32 0x41 = some .bchDecode
    ∧ (after (step (State.reset.withFetchWord 32 0x41))).statusWord = 0x00410506#32 := by decide +kernel

/-! ## Witnesses: states and operands that meet the hypotheses of the statements -/

/-- Every command answers a next state. -/
theorem exec_after (i : Instr) (s : State) : exec i s = .next (after (exec i s)) := by
  obtain ⟨cs, ch, r, h⟩ := exec_eq_runCommand i s
  rcases runCommand_cases i cs ch r s with h' | ⟨e, h'⟩ <;> simp [h, h', after]

/-- The Viterbi unit with the trellis of zeros: every edge leads to state 0 with coded group 0. -/
def vitZeros (k n m : Nat) : State :=
  State.reset.withVit { State.reset.vit with k := BitVec.ofNat 3 k, n := BitVec.ofNat 3 n, m := BitVec.ofNat 3 m }

theorem legalTable_zeros (s : State) (h : s.vit.tab = Vector.replicate 512 ⟨0#6, 0#4⟩) : legalTable s.vit := by
  intro st u _ _
  simp [Vit.next, Vit.out, Vit.entry, h]

theorem legalTable_75 : legalTable vit75Table.vit := by
  intro st u hs hu
  have hs : st < 4 := hs
  have hu : u < 2 := hu
  interval_cases st <;> interval_cases u <;> decide +kernel

theorem legalShape_75 : legalShape vit75Table.vit := by
  unfold legalShape; decide +kernel

theorem legalFramer_2D : legalFramer framer2D.frm := by
  unfold legalFramer; decide +kernel

theorem witness_IllegalWordPerformsNothing :
    legalWord 0x102#32 = false ∧ State.reset.inFlight = none
    ∧ (running 0x102#32 0 [] State.reset).inFlight = some ⟨0x102#32, 0⟩
    ∧ (running 0x102#32 0 [] State.reset).host = []
    ∧ (running 0x102#32 0 [.wait] State.reset).statusWriteNow = none
    ∧ (running 0x102#32 0 [.write 0x00B#12 4#32] State.reset).statusWriteNow = some 4#32 := by decide +kernel

theorem witness_StepRunsDecodedCommand :
    decode 0x111#32 = .ok (.frmPushbit true)
    ∧ (running 0x111#32 0 [.idle] framer2D).inFlight = some ⟨0x111#32, 0⟩
    ∧ (running 0x111#32 0 [] framer2D).host = []
    ∧ (running 0x111#32 0 [.idle] framer2D).statusWriteNow = none
    ∧ (running 0x111#32 0 [.write 0x008#12 2#32] framer2D).statusWriteNow = some 2#32
    ∧ decodeTableWord 32 0x111 = some (.frmPushbit true) := by decide +kernel

/-- The cycles that complete no command, with each of the host's transactions. -/
theorem witness_StepRunsDecodedCommand_host :
    framer2D.inFlight = none ∧ (running 0x111#32 1 [] framer2D).inFlight = some ⟨0x111#32, 0 + 1⟩
    ∧ framer2D.host = []
    ∧ (framer2D.withHost [.write 0xFFF#12 5#32]).host = .write 0xFFF#12 5#32 :: []
    ∧ (framer2D.withHost [.read 0x000#12]).host = .read 0x000#12 :: []
    ∧ (framer2D.withHost [.idle, .wait]).host = .idle :: [.wait]
    ∧ ((framer2D.withHost [.wait]).host = .wait :: [] ∧ (framer2D.withHost [.wait]).inFlight = none)
    ∧ ((running 0x111#32 1 [.wait] framer2D).host = .wait :: [] ∧ (running 0x111#32 1 [.wait] framer2D).inFlight ≠ none) := by
  decide +kernel

theorem witness_CommandCompletesAfterItsLatency :
    (running 0#32 2 [] State.reset).inFlight = some ⟨0#32, 2⟩ ∧ (running 0#32 2 [] State.reset).host = [] := by
  decide +kernel

/-- A capture in progress meets the invariant and takes a step. -/
theorem witness_StepKeepsInvariant : framerCapturing.Inv ∧ step framerCapturing = .next framerCapturing := by
  refine ⟨⟨by decide +kernel, by decide +kernel, by decide +kernel, ⟨by decide +kernel, by decide +kernel, ?_, ?_⟩,
    by decide +kernel⟩, rfl⟩
  · decide +kernel
  · decide +kernel

theorem witness_ErrorLeavesNoEffect :
    exec .corrPush State.reset = .next (after (exec .corrPush State.reset))
    ∧ (after (exec .corrPush State.reset)).status.errCode ≠ 0#4 := ⟨exec_after _ _, by decide +kernel⟩

theorem witness_CorrelatorNeedsLegalLength :
    State.reset.corr.len.toNat = 0 ∧ 64 < (State.reset.withCorr { State.reset.corr with len := 65#7 }).corr.len.toNat := by
  decide +kernel

/-- FRM_DST one past the last place that holds the frame, then the frame at the end of BM. -/
theorem witness_FramerPushErrorsInOrder :
    ¬ legalFramer { framer2D.frm with dst := 8189#32 }
    ∧ legalFramer { framer2D.frm with dst := 8188#32 }
    ∧ legalFramer framer2D.frm ∧ (framer2D.withFrameReady true).status.frameReady = true
    ∧ framer2D.status.frameReady = false
    ∧ ¬ inBm (args 8190 3 0 framer2D).arg0 (args 8190 3 0 framer2D).arg1 := by
  unfold legalFramer inBm; decide +kernel

theorem witness_ViterbiErrorsInOrder_config :
    ¬ legalGenerators { vit75.vit with g0 := 8#7 } ∧ legalGenerators vit75.vit
    ∧ ¬ (legalShape State.reset.vit ∧ legalTable State.reset.vit) := by
  refine ⟨by unfold legalGenerators; decide +kernel, by unfold legalGenerators; decide +kernel, ?_⟩
  rintro ⟨h, -⟩
  revert h
  unfold legalShape
  decide +kernel

/-- A table entry whose next state is S. -/
theorem witness_ViterbiErrorsInOrder_table :
    ¬ (legalShape vit75.vit ∧ legalTable { vit75.vit with tab := putSlot vit75.vit.tab 25 ⟨4#6, 0#4⟩ }) := by
  rintro ⟨-, h⟩
  have := (h 3 1 (by decide +kernel) (by decide +kernel)).1
  revert this
  decide +kernel

/-- LENGTH of VIT_ENCODE with K = 2 and one bit too many, then RANGE of both commands. -/
theorem witness_ViterbiErrorsInOrder_encode :
    let s := args 0 3 0 (vitZeros 2 4 1)
    let r := args 8192 1 0 (vitZeros 1 2 6)
    (legalShape s.vit ∧ legalTable s.vit ∧ s.arg1 % s.vit.kBits ≠ 0)
    ∧ (legalShape r.vit ∧ legalTable r.vit ∧ r.arg1 % r.vit.kBits = 0
      ∧ ¬ (inBm r.arg0 r.arg1 ∧ inBm r.arg2 (r.arg1 / r.vit.kBits * r.vit.nBits))
      ∧ r.arg1 / r.vit.nBits ≤ 1024
      ∧ ¬ (inBm r.arg0 r.arg1 ∧ inBm r.arg2 (r.arg1 / r.vit.nBits * r.vit.kBits))) := by
  refine ⟨⟨?_, legalTable_zeros _ rfl, ?_⟩, ?_, legalTable_zeros _ rfl, ?_⟩ <;>
    (try unfold legalShape) <;> (try unfold inBm) <;> decide +kernel

/-- LENGTH of VIT_DECODE: one step too many. -/
theorem witness_ViterbiErrorsInOrder_decode :
    let s := args 0 2050 0 (vitZeros 1 2 6)
    legalShape s.vit ∧ legalTable s.vit ∧ 1024 < s.arg1 / s.vit.nBits := by
  refine ⟨?_, legalTable_zeros _ rfl, ?_⟩ <;> (try unfold legalShape) <;> decide +kernel

theorem witness_BchErrorsInOrder :
    (State.reset.withBch { State.reset.bch with genLo := 0#32, genHi := 0#32 }).bch.gen = 0
    ∧ (State.reset.withBch { State.reset.bch with genLo := 1#32, genHi := 0#32 }).bch.gen = 1
    ∧ 2 ^ 63 ≤ (State.reset.withBch { State.reset.bch with genHi := 0x80000000#32 }).bch.gen
    ∧ (2 ≤ State.reset.bch.gen ∧ State.reset.bch.gen < 2 ^ 63 ∧ State.reset.arg1 ≠ 63 - State.reset.bch.degree)
    ∧ ((args 8177 16 0 State.reset).arg1 = 63 - State.reset.bch.degree
      ∧ ¬ (inBm (args 8177 16 0 State.reset).arg0 16 ∧ inBm 0 63))
    ∧ (State.reset.withBch { State.reset.bch with t := 0#4 }).bch.t = 0#4
    ∧ State.reset.bch.t ≠ 0#4 ∧ State.reset.arg1 ≠ 63
    ∧ (args 0 63 8130 State.reset).arg1 = 63 ∧ ¬ (inBm 0 63 ∧ inBm (args 0 63 8130 State.reset).arg2 63) := by
  unfold inBm; decide +kernel

theorem witness_CrcErrorsInOrder_config :
    ¬ (1 ≤ State.reset.crc.width ∧ State.reset.crc.width ≤ 32 ∧ State.reset.crc.trial.toNat ≤ 2)
    ∧ ¬ (1 ≤ (crc3 3#2).crc.width ∧ (crc3 3#2).crc.width ≤ 32 ∧ (crc3 3#2).crc.trial.toNat ≤ 2) := by decide +kernel

/-- LENGTH, and RANGE by an overlap of one bit. -/
theorem witness_CrcErrorsInOrder_operands :
    (1 ≤ (crc3 2#2).crc.width ∧ (crc3 2#2).crc.width ≤ 32 ∧ (crc3 2#2).crc.trial.toNat ≤ 2)
    ∧ 1024 < (args 0 1025 2000 (crc3 2#2)).arg1
    ∧ (args 0 1024 1023 (crc3 2#2)).arg1 ≤ 1024 ∧ ¬ legalCrc (args 0 1024 1023 (crc3 2#2)) := by
  unfold legalCrc inBm; decide +kernel

/-- Ranges that end at the end of BM, and one that ends past it. -/
theorem witness_CopyWritesSourceAsItWas :
    (inBm (args 8184 8 8188 State.reset).arg0 8 ∧ inBm (args 8184 8 0 State.reset).arg2 8)
    ∧ ¬ (inBm (args 8184 8 8188 State.reset).arg0 8 ∧ inBm (args 8184 8 8188 State.reset).arg2 8) := by
  unfold inBm; decide +kernel

theorem witness_CorrPushStoresAndScores :
    1 ≤ corrPushed.corr.len.toNat ∧ corrPushed.corr.len.toNat ≤ 64
    ∧ (State.reset.withCorr { State.reset.corr with len := 64#7 }).corr.len.toNat ≤ 64 := by decide +kernel

theorem witness_CorrScoreRescoresWithoutPushing :
    1 ≤ corr123.corr.len.toNat ∧ corr123.corr.len.toNat ≤ 64 := by decide +kernel

/-- The write pointer at the end of the longest window. -/
theorem witness_PushSlidesTheWindow :
    let c := { State.reset.corr with len := 64#7, wp := 63#6 }
    1 ≤ c.len.toNat ∧ c.len.toNat ≤ 64 ∧ c.wp.toNat < c.len.toNat ∧ 0 + 1 < c.len.toNat := by decide +kernel

/-- Each clause at a boundary value: the first and last NaN, both infinities, both zeros, the least subnormal, the largest
finite value. -/
theorem witness_NaNResultsAreCanonical :
    0x7F800000 < magnitude 0x7F800001#32 ∧ 0x7F800000 < magnitude 0xFFFFFFFF#32
    ∧ (magnitude 0xFF800000#32 = 0x7F800000 ∧ magnitude 0x80000000#32 = 0)
    ∧ (magnitude 0x7F800000#32 = 0x7F800000 ∧ (0x7F800000#32).getLsbD 31 ≠ (0xFF800000#32).getLsbD 31)
    ∧ 0x7F800000 < magnitude (fmul32 0x7F800000#32 0#32)
    ∧ 0x7F800000 < magnitude (fadd32 0x7F800000#32 0xFF800000#32)
    ∧ (0 < magnitude 0x80000001#32 ∧ magnitude 0xFF7FFFFF#32 ≤ 0x7F800000)
    ∧ (magnitude 0xFF800000#32 = 0x7F800000 ∧ (0xFF800000#32).getLsbD 31 = (0xFF800000#32).getLsbD 31)
    ∧ fgt32 0x7F800000#32 0x7F7FFFFF#32 = true := by decide +kernel

/-- The last value that rounds to a finite one, the first that rounds to infinity, and finite operands whose sum is an exact
zero. -/
theorem witness_RoundingIsToNearestEven :
    f32Round ((2 ^ 25 - 1) * 2 ^ 401 - 1) < 0x7F800000 ∧ f32Round ((2 ^ 25 - 1) * 2 ^ 401) = 0x7F800000
    ∧ magnitude 0x7F7FFFFF#32 < 0x7F800000 ∧ magnitude 0x80000001#32 < 0x7F800000
    ∧ valueUnits 0x3F800000#32 + valueUnits 0xBF800000#32 = 0 := by
  decide +kernel

theorem witness_MatchComparesTheLastBits :
    framer2D.frm.patLen.toNat ≤ 64 ∧ { framer2D.frm with patLen := 64#7 }.patLen.toNat ≤ 64 := by decide +kernel

theorem witness_PushBitWhileSearching :
    legalFramer framerBefore.frm ∧ framerBefore.status.frameReady = false ∧ framerBefore.frm.fstate = .searching
    ∧ (framerBefore.frm.shiftIn true).isMatch = true ∧ (framerBefore.frm.shiftIn false).isMatch = false := by
  unfold legalFramer; decide +kernel

/-- A capture of one bit under the pattern 1011 with PREEMPT, whose next bit 1 completes a match. -/
def framerPreempting (preempt : Bool) : State :=
  framer1011.withFrm
    { framer1011.frm with
      preempt := preempt, hist := 0x5#64, hfill := 4#7, fstate := .capturing, cc := 4#13, tsPend := 4#32 }

theorem witness_PushBitWhileCapturing :
    let s := framerPreempting true
    let r := framerPreempting false
    (legalFramer s.frm ∧ s.status.frameReady = false ∧ s.frm.fstate = .capturing ∧ s.frm.cc.toNat < s.frm.total
      ∧ s.frm.preempt = true ∧ (s.frm.shiftIn true).isMatch = true)
    ∧ (legalFramer s.frm ∧ (s.frm.shiftIn false).isMatch = false ∧ s.frm.cc.toNat + 1 ≠ s.frm.total)
    ∧ (legalFramer r.frm ∧ r.status.frameReady = false ∧ r.frm.fstate = .capturing ∧ r.frm.cc.toNat < r.frm.total
      ∧ r.frm.preempt = false ∧ (r.frm.shiftIn true).isMatch = true ∧ r.frm.cc.toNat + 1 ≠ r.frm.total) := by
  unfold legalFramer; decide +kernel

theorem witness_CompletingBitDispatchesTheFrame :
    legalFramer framerCapturing.frm ∧ framerCapturing.status.frameReady = false
    ∧ framerCapturing.frm.fstate = .capturing ∧ framerCapturing.frm.cc.toNat + 1 = framerCapturing.frm.total
    ∧ framerCapturing.frm.preempt = false := by
  unfold legalFramer; decide +kernel

/-- The whole of BM as the range. -/
theorem witness_PushRangeIsBitByBit :
    let s := args 0 8192 0 framer2D
    legalFramer s.frm ∧ s.status.frameReady = false ∧ inBm s.arg0 s.arg1 := by
  unfold legalFramer inBm; decide +kernel

theorem witness_BitsAfterSyncAreTheFrame :
    legalFramer framerBefore.frm ∧ framerBefore.status.frameReady = false ∧ framerBefore.frm.fstate = .searching
    ∧ framerBefore.frm.preempt = false ∧ (framerBefore.frm.shiftIn true).isMatch = true
    ∧ [true, false, false, true].length = framerBefore.frm.flen.toNat := by
  unfold legalFramer; decide +kernel

theorem witness_GentabWritesTheGeneratorTrellis : legalGenerators vit75.vit := by
  unfold legalGenerators; decide +kernel

theorem witness_GeneratorTrellisHasTwoPredecessors :
    legalGenerators vit75.vit ∧ exec .vitGentab vit75 = .next (after (exec .vitGentab vit75))
    ∧ 3 < 2 ^ vit75.vit.m.toNat :=
  ⟨witness_GentabWritesTheGeneratorTrellis, exec_after _ _, by decide +kernel⟩

theorem witness_EncodeWalksTheTrellis :
    let s := args 0 6 8180 vit75Table
    legalShape s.vit ∧ legalTable s.vit ∧ s.arg1 % s.vit.kBits = 0 ∧ inBm s.arg0 s.arg1
    ∧ inBm s.arg2 (s.arg1 / s.vit.kBits * s.vit.nBits) := by
  refine ⟨legalShape_75, legalTable_75, ?_⟩
  unfold inBm; decide +kernel

theorem witness_DecodeFindsANearestSequence :
    let s := args 0 2049 0 vit75Table
    legalShape s.vit ∧ legalTable s.vit ∧ s.arg1 / s.vit.nBits ≤ 1024 ∧ inBm s.arg0 s.arg1
    ∧ inBm s.arg2 (s.arg1 / s.vit.nBits * s.vit.kBits) := by
  refine ⟨legalShape_75, legalTable_75, ?_⟩
  unfold inBm; decide +kernel

/-- The tie of V7: two nearest sequences that end in one state and differ at step 3 last. -/
theorem witness_DecodeFindsANearestSequence_tie :
    let v := vit75Table.vit
    let received := [0, 1, 0, 0, 0, 1, 0, 1, 0, 0].map (· == 1)
    let dec := [false, false, false, false, false]
    let info := [true, true, false, false, false]
    hd (v.enc dec).code received = hd (v.enc info).code received
    ∧ (v.enc dec).state = (v.enc info).state ∧ 3 < 5 ∧ v.edgeAt dec 4 = v.edgeAt info 4
    ∧ v.edgeAt dec 3 ≠ v.edgeAt info 3 := by decide +kernel

/-- One step of the code (7, 5): the codeword 11 of the information 1. -/
theorem witness_CleanCodewordDecodesToItsInformation :
    let s := args 0 2 100 (bits 0 [1, 1] vit75Table)
    legalShape s.vit ∧ legalTable s.vit ∧ s.arg1 / s.vit.nBits ≤ 1024 ∧ s.arg1 % s.vit.nBits = 0
    ∧ inBm s.arg0 s.arg1 ∧ inBm s.arg2 (s.arg1 / s.vit.nBits * s.vit.kBits)
    ∧ [true].length = s.arg1 / s.vit.nBits * s.vit.kBits
    ∧ bmRead s.bm s.arg0 s.arg1 = (s.vit.enc [true]).code
    ∧ ∀ other : Bits, other.length = [true].length → (s.vit.enc other).code = (s.vit.enc [true]).code →
        other = [true] := by
  refine ⟨legalShape_75, legalTable_75, by decide +kernel, by decide +kernel, by unfold inBm; decide +kernel,
    by unfold inBm; decide +kernel, by decide +kernel, by decide +kernel, ?_⟩
  intro other hl hc
  match other, hl with
  | [true], _ => rfl
  | [false], _ => exact absurd hc (by decide +kernel)

theorem witness_GeneratorCodeIsInjective :
    legalGenerators vit75.vit ∧ vit75.vit.g0.getLsbD vit75.vit.m.toNat = true
    ∧ vit75.vit.g1.getLsbD vit75.vit.m.toNat = true
    ∧ exec .vitGentab vit75 = .next (after (exec .vitGentab vit75)) :=
  ⟨witness_GentabWritesTheGeneratorTrellis, by decide +kernel, by decide +kernel, exec_after _ _⟩

theorem witness_BchEncodeIsSystematicAndDivisible :
    let s := args 0 16 8129 State.reset
    2 ≤ s.bch.gen ∧ s.bch.gen < 2 ^ 63 ∧ s.arg1 = 63 - s.bch.degree ∧ inBm s.arg0 s.arg1 ∧ inBm s.arg2 63 := by
  unfold inBm; decide +kernel

theorem witness_BchDecodeOutcomes :
    let s := args 8129 63 0 State.reset
    s.bch.t ≠ 0#4 ∧ s.arg1 = 63 ∧ inBm s.arg0 63 ∧ inBm s.arg2 63 := by
  unfold inBm; decide +kernel

/-- The codeword of H1 has no syndrome up to 22. -/
theorem noSyndrome_codeword : noSyndrome 11 (bitsOf 63 0x52E1925B04BF12A4) := by
  have h : allZero (syndromes 11 (bitsOf 63 0x52E1925B04BF12A4)) = true := by decide +kernel
  intro j h1 h2
  have := List.all_eq_true.mp h (syndrome (bitsOf 63 0x52E1925B04BF12A4) j)
    (List.mem_map.mpr ⟨j - 1, List.mem_range.mpr (by omega), by rw [Nat.sub_add_cancel h1]⟩)
  simpa using this

/-- The codeword of H1 with its last bit in error, and H2's error of element 5 in BM. -/
theorem witness_SingleErrorIsCorrected :
    let c := bitsOf 63 0x52E1925B04BF12A4
    let s := args 0 63 8129 (State.reset.withBm (bmWrite [] 0 (flipAt c 5)))
    c.length = 63 ∧ 1 ≤ 11 ∧ 11 ≤ 15 ∧ 62 < 63 ∧ noSyndrome 11 c
    ∧ s.bch.t ≠ 0#4 ∧ s.arg1 = 63 ∧ inBm s.arg0 63 ∧ inBm s.arg2 63 ∧ noSyndrome s.bch.t.toNat c
    ∧ bmRead s.bm s.arg0 63 = flipAt c 5 := by
  refine ⟨by decide +kernel, by decide, by decide, by decide, noSyndrome_codeword, by decide +kernel, by decide +kernel,
    by unfold inBm; decide +kernel, by unfold inBm; decide +kernel, noSyndrome_codeword, by decide +kernel⟩

/-- The field right after the data, and right before it. -/
theorem witness_CrcGenStoresTheRemainder :
    legalCrc (args 0 1024 1024 (crc3 2#2)) ∧ legalCrc (args 3 8 0 (crc3 0#2)) := by
  unfold legalCrc inBm; decide +kernel

theorem witness_CrcVerifyDecides : legalCrc (args 0 4 4 (crc3 2#2)) ∧ legalCrc (args 0 0 0 (crc3 1#2)) := by
  unfold legalCrc inBm; decide +kernel

theorem witness_CrcCandidatesAreLinear :
    1 ≤ (crc3 2#2).crc.width ∧ (crc3 2#2).crc.width ≤ 32 ∧ [true, false, true].length = (crc3 2#2).crc.width
    ∧ 0 < 4 + (crc3 2#2).crc.width ∧ 6 < 4 + (crc3 2#2).crc.width := by decide +kernel

theorem witness_GeneratedFieldVerifies : legalCrc (args 0 72 72 (crc3 2#2)) := by
  unfold legalCrc inBm; decide +kernel

theorem witness_CorrectedCountIsMonotonic :
    exec .nop State.reset = .next (after (exec .nop State.reset)) ∧ Instr.nop ≠ .vitDecode ∧ Instr.nop ≠ .bchDecode
    ∧ Instr.nop ≠ .crcVerify := ⟨exec_after _ _, by decide, by decide, by decide⟩

theorem witness_CommandsKeepOperandsAndConfiguration :
    exec .frmPushrange framer2D = .next (after (exec .frmPushrange framer2D)) := exec_after _ _

theorem witness_UnitsChangeOnlyUnderTheirCommands :
    let s := framer2D.withFrameReady true
    exec .frmAck s = .next (after (exec .frmAck s)) ∧ s.status.frameReady = true
    ∧ (after (exec .frmAck s)).status.frameReady = false := ⟨exec_after _ _, by decide +kernel, by decide +kernel⟩

theorem witness_StatusReadsItsFields :
    (0x008#12).toNat / 4 = 2 ∧ (0x00B#12).toNat / 4 = 2 ∧ State.reset.inFlight = none
    ∧ (running 0#32 1 [] State.reset).inFlight = some ⟨0#32, 1⟩ := by decide +kernel

/-- The ends of the cases of the BUSY hazard. -/
theorem witness_BusyDropsHostWrites :
    (running 0#32 1 [] State.reset).inFlight ≠ none
    ∧ (0xFFF#12).toNat / 4 ≠ 1 ∧ (0xFFF#12).toNat / 4 ≠ 2 ∧ (0x007#12).toNat / 4 = 1 ∧ (0x1E#32).getLsbD 0 = false
    ∧ (0x008#12).toNat / 4 = 2 ∧ (0x003#12).toNat / 4 = 0 := by decide +kernel

theorem witness_SoftResetRestoresTheResetState :
    (0x005#12).toNat / 4 = 1 ∧ (0xFFFFFFFF#32).getLsbD 0 = true
    ∧ (running 0#32 3 [.hardReset, .wait] corrPushed).host = .hardReset :: [.wait] := by decide +kernel

theorem witness_BmWordsAreMsbFirst : 255 < 256 ∧ State.reset.inFlight = none := by decide +kernel

theorem witness_RegistersReadBackTheirFields :
    State.reset.inFlight = none ∧ (0x1E#32).getLsbD 0 = false ∧ 63 < 64 ∧ 511 < 512 := by decide +kernel

/-- Both ends of the last unmapped range, a read-only register and both ends of SYMBUF. -/
theorem witness_UnmappedOffsetsAreIgnored :
    State.reset.inFlight = none ∧ (0x0F0#12).toNat / 4 * 4 = 0x0F0 ∧ (0x1FF#12).toNat / 4 * 4 = 0x1FC
    ∧ (0x01C#12).toNat / 4 * 4 = 0x01C ∧ (0x08F#12).toNat / 4 * 4 = 0x08C
    ∧ (0x300#12).toNat / 4 * 4 = 0x300 + 4 * 0 ∧ (0x3FF#12).toNat / 4 * 4 = 0x300 + 4 * 63 := by decide +kernel

theorem witness_CmdWriteIssuesTheCommand : State.reset.inFlight = none := by decide +kernel

theorem witness_ConfigurationWritesDiscardProgress : framerCapturing.inFlight = none := by decide +kernel

/-- A correlator whose next push of 4.0 scores 20.0 over a threshold of +0.0. -/
def corrDetecting : State :=
  args 0x40800000 0 0 (corrPushed.withCorr { corrPushed.corr with thresh := 0#32 })

/-- A success, an error, and a detection under a write of all ones to the last alias of STATUS. -/
theorem witness_WriteWithCompletionLeavesDoneSet :
    let h : List HostOp := [.write 0x00B#12 0xFFFFFFFF#32]
    let s := running 0#32 0 h State.reset
    let r := running 4#32 0 h State.reset
    (0x00B#12).toNat / 4 = 2
    ∧ (s.inFlight = some ⟨0#32, 0⟩ ∧ s.host = .write 0x00B#12 0xFFFFFFFF#32 :: []
      ∧ ∃ t, step s = .next t ∧ t.status.errCode = 0#4)
    ∧ (r.inFlight = some ⟨4#32, 0⟩ ∧ r.host = .write 0x00B#12 0xFFFFFFFF#32 :: []
      ∧ ∃ t, step r = .next t ∧ t.status.errCode ≠ 0#4) :=
  ⟨by decide, ⟨rfl, rfl, _, rfl, by decide +kernel⟩, ⟨rfl, rfl, _, rfl, by decide +kernel⟩⟩

theorem witness_WriteWithCompletionLeavesDoneSet_detection :
    let s := running 2#32 0 [.write 0x008#12 0x20#32] corrDetecting
    s.inFlight = some ⟨2#32, 0⟩ ∧ s.host = .write 0x008#12 0x20#32 :: [] ∧ step s = .next (after (step s))
    ∧ decode 2#32 = .ok .corrPush ∧ 1 ≤ s.corr.len.toNat ∧ s.corr.len.toNat ≤ 64
    ∧ fgt32 (after (step s)).corr.score s.corr.thresh = true :=
  ⟨rfl, rfl, exec_after .corrPush ((running 2#32 0 [] corrDetecting).writeStatus 0x20#32), by decide +kernel,
    by decide +kernel, by decide +kernel, by decide +kernel⟩

end Sys2Proof.Tests
end

/-! ## What a command can change

SUPPORT. One inversion lemma for `exec`: a command is turned away, or it completes a state that its `Effect`
describes. -/

section
namespace Sys2Proof.Machine

/-- `m'` comes from `m` by stores of bit vectors inside BM (20_memory.md R85, R86). -/
inductive Stored (m : Memory) : Memory → Prop
  | none : Stored m m
  | write {m' : Memory} (a : Nat) (bits : Bits) (h : Stored m m') (hr : a + bits.length ≤ Config.bmBits) :
      Stored m (bmWrite m' a bits)

/-- `u` comes from `s` by received bits, one after another (42_framer.md R163). -/
inductive Pushed (s : State) : State → Prop
  | none : Pushed s s
  | push {u : State} (b : Bool) (h : Pushed s u) : Pushed s (pushBit u b).state

/-- `u` is `s` with the changes of its own that a successful `i` makes, before its completion. -/
inductive Effect (s : State) : Instr → State → Prop
  | nop : Effect s .nop s
  | corrClear : Effect s .corrClear (s.withCorr s.corr.clear)
  | corrPush (hn : s.corr.lenOk = true) : Effect s .corrPush (s.withCorr (s.corr.push s.args.arg0).rescored)
  | corrDetect (hn : s.corr.lenOk = true) :
      Effect s .corrPush (s.withCorr (s.corr.push s.args.arg0).rescored).raiseSync
  | corrScore (hn : s.corr.lenOk = true) : Effect s .corrScore (s.withCorr s.corr.rescored)
  | frmReset : Effect s .frmReset (s.withFrm s.frm.resetCapture)
  | frmPush {i : Instr} {u : State} (hi : (∃ b, i = .frmPushbit b) ∨ i = .frmPushrange)
      (hc : s.frm.configOk = true) (hr : s.status.frameReady = false) (hp : Pushed s u) : Effect s i u
  | frmAck : Effect s .frmAck (s.withFrameReady false)
  | vitGentab : Effect s .vitGentab (s.withVit { s.vit with tab := s.vit.generatedTable })
  | store {i : Instr} {m : Memory} (hi : i ∈ [.bvCopy, .vitEncode, .bchEncode, .crcGen]) (hm : Stored s.bm m) :
      Effect s i (s.withBm m)
  | decode {i : Instr} {m : Memory} {n : Nat} (hi : i ∈ [.vitDecode, .bchDecode, .crcVerify])
      (hm : Stored s.bm m) : Effect s i ((s.withBm m).addCorrected n)

/-- One store to a range that the command's checks cover (20_memory.md R86). -/
theorem Stored.of_checks {m : Memory} {cs : List (Bool × CmdError)} {a : Nat} {bits : Bits} (n : Nat)
    (hc : ∀ c ∈ cs, c.1 = true) (hr : (validRange a n, .range) ∈ cs) (hl : bits.length = n) :
    Stored m (bmWrite m a bits) :=
  .write a bits .none (hl ▸ (validRange_iff.mp (hc _ hr)).2)

/-- FRM_PUSHRANGE's loop pushes bits and does nothing else (42_framer.md R172). -/
theorem pushed_pushBits {s : State} (n a : Nat) (r : RunResult) (h : Pushed s r.state) :
    Pushed s (pushBits n a r).state := by
  induction n generalizing a r with
  | zero => exact h
  | succ n ih =>
    rw [pushBits]
    split
    · exact h.push _
    · exact ih _ _ (h.push _)

/-- A correction of CRC_VERIFY writes back the two ranges it read (45_crc.md R264). -/
theorem stored_crcWriteBack (m : Memory) {a d f w : Nat} {z : Bits} (v : CrcVerdict) (hz : z.length = d + w)
    (ha : validRange a d = true) (hf : validRange f w = true) : Stored m (crcWriteBack m a d f z v) := by
  have hlen : ∀ ps : List Nat, (ps.foldl flipAt z).length = d + w := fun ps => by
    induction ps using List.reverseRecOn with
    | nil => exact hz
    | append_singleton ps p ih => rw [List.foldl_append, List.foldl_cons, List.foldl_nil, length_flipAt, ih]
  rw [validRange_iff] at ha hf
  unfold crcWriteBack
  split
  · exact ((Stored.none).write a _ (by rw [List.length_take, hlen]; omega)).write f _
      (by rw [List.length_drop, hlen]; omega)
  · exact .none
  · exact .none

/-- From the effect under passed checks to the two completions of 60_exceptions.md R300 and R301. -/
theorem runCommand_effect {i : Instr} {cs : List (Bool × CmdError)} {ch s t : State} {r : Results}
    (h : runCommand i cs ch r s = .next t) (he : (∀ c ∈ cs, c.1 = true) → Effect s i ch) :
    (∃ e, t = s.raiseError i.opcode e) ∨ ∃ u r, Effect s i u ∧ t = u.complete i.opcode r := by
  obtain ⟨hcs, h'⟩ | ⟨e, -, h'⟩ := runCommand_cases i cs ch r s
  · cases h.symm.trans h'
    exact .inr ⟨ch, r, he (firstFailure_eq_none.mp hcs), rfl⟩
  · cases h.symm.trans h'
    exact .inl ⟨e, rfl⟩

/-- All a command can do. -/
theorem exec_effect {i : Instr} {s t : State} (h : exec i s = .next t) :
    (∃ e, t = s.raiseError i.opcode e) ∨ ∃ u r, Effect s i u ∧ t = u.complete i.opcode r := by
  cases i with
  | nop =>
    unfold exec execNop at h
    exact runCommand_effect h fun _ => .nop
  | corrClear =>
    unfold exec execCorrClear at h
    exact runCommand_effect h fun _ => .corrClear
  | corrPush =>
    refine runCommand_effect h fun hc => ?_
    have hn : s.corr.lenOk = true := by simpa using hc
    split
    · exact .corrDetect hn
    · exact .corrPush hn
  | corrScore => exact runCommand_effect h fun hc => .corrScore (by simpa using hc)
  | frmReset =>
    unfold exec execFrmReset at h
    exact runCommand_effect h fun _ => .frmReset
  | frmPushbit b =>
    refine runCommand_effect h fun hc => ?_
    obtain ⟨hf, hr⟩ : s.frm.configOk = true ∧ s.status.frameReady = false := by simpa using hc
    exact .frmPush (.inl ⟨b, rfl⟩) hf hr (Pushed.none.push b)
  | frmPushrange =>
    refine runCommand_effect h fun hc => ?_
    obtain ⟨hf, hr, -⟩ :
        s.frm.configOk = true ∧ s.status.frameReady = false ∧ validRange s.arg0 s.arg1 = true := by
      simpa using hc
    exact .frmPush (.inr rfl) hf hr (pushed_pushBits _ _ _ .none)
  | frmAck =>
    unfold exec execFrmAck at h
    exact runCommand_effect h fun _ => .frmAck
  | bvCopy =>
    exact runCommand_effect h fun hc => .store (by simp) (.of_checks s.arg1 hc (by simp) (by simp))
  | vitGentab => exact runCommand_effect h fun _ => .vitGentab
  | vitEncode =>
    exact runCommand_effect h fun hc =>
      .store (by simp) (.of_checks (s.arg1 / s.vit.kBits * s.vit.nBits) hc (by simp) (by simp [length_enc]))
  | vitDecode =>
    exact runCommand_effect h fun hc =>
      .decode (by simp) (.of_checks (s.arg1 / s.vit.nBits * s.vit.kBits) hc (by simp)
        (by simp [length_decodeGroups]))
  | bchEncode =>
    exact runCommand_effect h fun hc => .store (by simp) (.of_checks 63 hc (by simp) (length_bchenc ..))
  | bchDecode =>
    exact runCommand_effect h fun hc => .decode (by simp) (.of_checks 63 hc (by simp) (by simp [length_bchdec]))
  | crcGen =>
    exact runCommand_effect h fun hc =>
      .store (by simp) (.of_checks s.crc.width hc (by simp [crcChecks]) (length_bitsOf ..))
  | crcVerify =>
    refine runCommand_effect h fun hc => .decode (by simp) (stored_crcWriteBack (w := s.crc.width) _ _ ?_ ?_ ?_)
    · simp
    · exact hc (validRange s.arg0 s.arg1, .range) (by simp [crcChecks])
    · exact hc (validRange s.arg2 s.crc.width, .range) (by simp [crcChecks])

end Sys2Proof.Machine
end

/-! ## The framer's bits

SUPPORT. What one received bit does to the state, and what every run of received bits leaves alone. -/

section
namespace Sys2Proof.Machine

/-- The framer with the configuration registers of `c` (10_state.md R44 to R47). -/
def Framer.configure (f c : Framer) : Framer :=
  { f with
    patLo := c.patLo, patHi := c.patHi, patLen := c.patLen, maxErr := c.maxErr, preempt := c.preempt
    incSync := c.incSync, patId := c.patId, flen := c.flen, dst := c.dst }

/-- The configuration registers alone: everything else as after reset. -/
def Framer.config (f : Framer) : Framer := State.reset.frm.configure f

@[simp] theorem Framer.config_shiftIn (f : Framer) (b : Bool) : (f.shiftIn b).config = f.config := rfl
@[simp] theorem Framer.config_startCapture (f : Framer) : f.startCapture.config = f.config := rfl
@[simp] theorem Framer.config_append (f : Framer) (b : Bool) : (f.append b).config = f.config := rfl
@[simp] theorem Framer.config_dispatched (f : Framer) : f.dispatched.config = f.config := rfl

/-- Equal configuration registers, said as a record update. -/
theorem Framer.eq_configure {f g : Framer} (h : f.config = g.config) : f = f.configure g := by
  show f.configure f.config = f.configure g.config
  rw [h]

/-- Whether the configuration is legal depends on the configuration registers only (42_framer.md R162). -/
theorem Framer.configOk_congr {f g : Framer} (h : f.config = g.config) : f.configOk = g.configOk := by
  show f.config.configOk = g.config.configOk
  rw [h]

/-- All that one bit can do (42_framer.md R163). -/
theorem pushBit_cases (s : State) (b : Bool) :
    ((s.frm.fstate = .searching ∧ (pushBit s b).state = s.withFrm (s.frm.shiftIn b))
      ∨ (pushBit s b).state = s.withFrm (s.frm.shiftIn b).startCapture)
    ∨ s.frm.fstate = .capturing
      ∧ ((((s.frm.shiftIn b).append b).cc.toNat ≠ s.frm.total
          ∧ (pushBit s b).state = s.withFrm ((s.frm.shiftIn b).append b))
        ∨ (pushBit s b).state = dispatchFrame (s.withFrm ((s.frm.shiftIn b).append b))) := by
  have hf : (s.frm.shiftIn b).fstate = s.frm.fstate := rfl
  unfold pushBit
  cases hs : s.frm.fstate with
  | searching =>
    rw [hs] at hf
    simp only [hf]
    split
    · exact .inl (.inr rfl)
    · exact .inl (.inl ⟨trivial, rfl⟩)
  | capturing =>
    rw [hs] at hf
    simp only [hf]
    split
    · exact .inl (.inr rfl)
    · split
      · exact .inr ⟨trivial, .inr rfl⟩
      · next hne => exact .inr ⟨trivial, .inl ⟨hne, rfl⟩⟩

/-- `t` differs from `s` at most in BM, in FRAME_READY and in the framer's registers that are no configuration. -/
def FramerOnly (s t : State) : Prop :=
  t = ((s.withBm t.bm).withFrm t.frm).withFrameReady t.status.frameReady ∧ t.frm.config = s.frm.config

theorem FramerOnly.trans {s t u : State} (h : FramerOnly s t) (h' : FramerOnly t u) : FramerOnly s u := by
  obtain ⟨hst, hc⟩ := h
  obtain ⟨htu, hc'⟩ := h'
  refine ⟨?_, hc'.trans hc⟩
  rw [hst] at htu
  exact htu

theorem framerOnly_withFrm {s : State} {f : Framer} (h : f.config = s.frm.config) : FramerOnly s (s.withFrm f) :=
  ⟨rfl, h⟩

theorem framerOnly_dispatchFrame (s : State) : FramerOnly s (dispatchFrame s) :=
  ⟨rfl, Framer.config_dispatched s.frm⟩

theorem framerOnly_pushBit (s : State) (b : Bool) : FramerOnly s (pushBit s b).state := by
  obtain (⟨-, h⟩ | h) | ⟨-, ⟨-, h⟩ | h⟩ := pushBit_cases s b <;> rw [h]
  · exact framerOnly_withFrm (by simp)
  · exact framerOnly_withFrm (by simp)
  · exact framerOnly_withFrm (by simp)
  · exact (framerOnly_withFrm (by simp)).trans (framerOnly_dispatchFrame _)

/-- A run of received bits touches nothing but the framer's unit and BM. -/
theorem Pushed.framerOnly {s u : State} (h : Pushed s u) : FramerOnly s u := by
  induction h with
  | none => exact ⟨rfl, rfl⟩
  | push b _ ih => exact ih.trans (framerOnly_pushBit _ b)

end Sys2Proof.Machine
end

/-! ## What commands leave alone -/

section
namespace Sys2Proof.Machine

/-- The corrected bit count saturates (10_state.md R36), so it never falls. -/
theorem ccnt_le_addCorrected (s : State) (n : Nat) : s.ccnt.toNat ≤ (s.addCorrected n).ccnt.toNat := by
  have := s.ccnt.isLt
  rw [State.addCorrected_ccnt, BitVec.toNat_ofNat, Nat.mod_eq_of_lt (by omega)]
  omega

theorem FramerOnly.ccnt {s t : State} (h : FramerOnly s t) : t.ccnt = s.ccnt := by
  rw [h.1]
  rfl

/-- CCNT under a command's own changes: the decoders add to it, no other command touches it. -/
theorem Effect.ccnt {s u : State} {i : Instr} (h : Effect s i u) :
    u.ccnt = s.ccnt ∨ i ∈ [.vitDecode, .bchDecode, .crcVerify] ∧ s.ccnt.toNat ≤ u.ccnt.toNat := by
  cases h with
  | decode hi _ => exact .inr ⟨hi, ccnt_le_addCorrected _ _⟩
  | frmPush _ _ _ hp => exact .inl hp.framerOnly.ccnt
  | _ => exact .inl rfl

/-- Settles O46: an error changes no count, and of the effects of a success only a decoder's adds to it. -/
theorem correctedCountIsMonotonic : Obligations.CorrectedCountIsMonotonic := by
  intro i s t h
  have hcnt : t.ccnt = s.ccnt ∨ i ∈ [.vitDecode, .bchDecode, .crcVerify] ∧ s.ccnt.toNat ≤ t.ccnt.toNat := by
    obtain ⟨e, rfl⟩ | ⟨u, r, he, rfl⟩ := exec_effect h
    · exact .inl rfl
    · exact he.ccnt
  obtain heq | ⟨hi, hle⟩ := hcnt
  · exact ⟨heq ▸ Nat.le_refl _, fun _ _ _ => heq⟩
  · refine ⟨hle, fun hv hb hc => ?_⟩
    simp [hv, hb, hc] at hi

/-- `t` has the operands, the enables, BUSYERR, the configuration and the host's side of `s`. -/
def OperandsAndConfigurationKept (s t : State) : Prop :=
  t.args = s.args ∧ t.ctrl = s.ctrl ∧ t.status.busyErr = s.status.busyErr ∧ t.bch = s.bch ∧ t.crc = s.crc
  ∧ t.host = s.host ∧ t.rdata = s.rdata ∧ t.draws = s.draws
  ∧ t.corr = { t.corr with len := s.corr.len, thresh := s.corr.thresh, ref := s.corr.ref }
  ∧ t.vit = { s.vit with tab := t.vit.tab }
  ∧ t.frm = t.frm.configure s.frm

theorem FramerOnly.operandsAndConfigurationKept {s t : State} (h : FramerOnly s t) :
    OperandsAndConfigurationKept s t := by
  obtain ⟨ht, hc⟩ := h
  have hfrm := Framer.eq_configure hc
  rw [ht]
  exact ⟨rfl, rfl, rfl, rfl, rfl, rfl, rfl, rfl, rfl, rfl, hfrm⟩

theorem Effect.operandsAndConfigurationKept {s u : State} {i : Instr} (h : Effect s i u) :
    OperandsAndConfigurationKept s u := by
  cases h with
  | frmPush _ _ _ hp => exact hp.framerOnly.operandsAndConfigurationKept
  | _ => exact ⟨rfl, rfl, rfl, rfl, rfl, rfl, rfl, rfl, rfl, rfl, rfl⟩

/-- Settles O47: neither completion touches these registers, and no effect of a command does. -/
theorem commandsKeepOperandsAndConfiguration : Obligations.CommandsKeepOperandsAndConfiguration := by
  intro i s t h
  obtain ⟨e, rfl⟩ | ⟨u, r, he, rfl⟩ := exec_effect h
  · exact ⟨rfl, rfl, rfl, rfl, rfl, rfl, rfl, rfl, rfl, rfl, rfl⟩
  · exact he.operandsAndConfigurationKept

end Sys2Proof.Machine
end

/-! ## The invariant -/

section
namespace Sys2Proof.Machine

/-! ### The memory -/

theorem Stored.wf {m m' : Memory} (h : Stored m m') (hm : Memory.wf m = true) : Memory.wf m' = true := by
  induction h with
  | none => exact hm
  | write a bits _ _ ih => exact wf_bmWrite a bits ih

theorem Stored.inWindow {m m' : Memory} (h : Stored m m') (hm : Memory.inWindow m = true) :
    Memory.inWindow m' = true := by
  induction h with
  | none => exact hm
  | write a bits _ hr ih => exact inWindow_bmWrite a bits hr ih

/-! ### The framer -/

/-- R162 in plain numbers. -/
theorem Framer.configOk_iff {f : Framer} : f.configOk = true ↔ legalFramer f := by
  simp only [Framer.configOk, legalFramer, Bool.and_eq_true, decide_eq_true_eq, validRange_iff]
  simp only [Config.frmPatMax, Config.frmCapBits, Config.bmBits]
  omega

theorem Framer.cc_append (f : Framer) (b : Bool) : (f.append b).cc = BitVec.ofNat 13 (f.cc.toNat + 1) := rfl

/-- A capture starts with fewer bits than the frame has (42_framer.md R161, R165). -/
theorem Framer.cc_startCapture_lt {f : Framer} (hc : f.configOk = true) : f.startCapture.cc.toNat < f.total := by
  obtain ⟨-, hpat, hflen, -, -⟩ := Framer.configOk_iff.mp hc
  unfold Framer.startCapture Framer.total
  cases f.incSync <;> simp <;> omega

theorem Framer.Inv.shiftIn {f : Framer} (h : f.Inv) (b : Bool) : (f.shiftIn b).Inv where
  hfill_le := by
    show (BitVec.ofNat 7 (min (f.hfill.toNat + 1) 64)).toNat ≤ 64
    rw [BitVec.toNat_ofNat]
    omega
  frameLen_le := h.frameLen_le
  searching_empty := h.searching_empty
  capturing_open := h.capturing_open

theorem Framer.Inv.startCapture {f : Framer} (h : f.Inv) (hc : f.configOk = true) : f.startCapture.Inv where
  hfill_le := h.hfill_le
  frameLen_le := h.frameLen_le
  searching_empty := nofun
  capturing_open := fun _ => ⟨hc, Framer.cc_startCapture_lt hc⟩

/-- A bit appended to a running capture counts as one, with no overflow of CC. -/
theorem Framer.Inv.toNat_cc_append {f : Framer} (h : f.Inv) (hs : f.fstate = .capturing) (b : Bool) :
    (f.append b).cc.toNat = f.cc.toNat + 1 := by
  obtain ⟨hc, hlt⟩ := h.capturing_open hs
  obtain ⟨-, -, -, htot, -⟩ := Framer.configOk_iff.mp hc
  rw [Framer.cc_append, BitVec.toNat_ofNat, Nat.mod_eq_of_lt (by omega)]

theorem Framer.Inv.append {f : Framer} (h : f.Inv) (hs : f.fstate = .capturing) {b : Bool}
    (hne : (f.append b).cc.toNat ≠ f.total) : (f.append b).Inv where
  hfill_le := h.hfill_le
  frameLen_le := h.frameLen_le
  searching_empty := fun hs' => nomatch hs.symm.trans hs'
  capturing_open := fun _ => by
    obtain ⟨hc, hlt⟩ := h.capturing_open hs
    rw [h.toNat_cc_append hs] at hne ⊢
    exact ⟨hc, show f.cc.toNat + 1 < f.total by omega⟩

theorem Framer.inv_dispatched {f : Framer} (hh : f.hfill.toNat ≤ 64) (hc : f.configOk = true) : f.dispatched.Inv where
  hfill_le := hh
  frameLen_le := by
    obtain ⟨-, -, -, htot, -⟩ := Framer.configOk_iff.mp hc
    show (BitVec.ofNat 13 f.total).toNat ≤ 4096
    rw [BitVec.toNat_ofNat]
    omega
  searching_empty := fun _ => rfl
  capturing_open := nofun

/-- A capture given up leaves only HFILL and FRAME_LEN to bound, whatever the new configuration is. -/
theorem Framer.inv_resetCapture {f : Framer} (hh : f.hfill.toNat ≤ 64) (hl : f.frameLen.toNat ≤ Config.frmCapBits) :
    f.resetCapture.Inv where
  hfill_le := hh
  frameLen_le := hl
  searching_empty := fun _ => rfl
  capturing_open := nofun

/-! ### Updates of the state -/

/-- The invariant speaks of BM, of CORR_LEN and WP, of the framer and of ERRCODE only. -/
theorem State.Inv.congr {s t : State} (h : s.Inv) (hb : t.bm = s.bm) (hl : t.corr.len = s.corr.len)
    (hw : t.corr.wp = s.corr.wp) (hf : t.frm = s.frm) (he : t.status.errCode = s.status.errCode) : t.Inv where
  memory_wf := hb ▸ h.memory_wf
  memory_inWindow := hb ▸ h.memory_inWindow
  wp_lt := by
    unfold Corr.lenOk
    rw [hl, hw]
    exact h.wp_lt
  framer := hf ▸ h.framer
  errCode_le := he ▸ h.errCode_le

theorem State.Inv.withFrm {s : State} (h : s.Inv) {f : Framer} (hf : f.Inv) : (s.withFrm f).Inv :=
  { h with framer := hf }

theorem State.Inv.withCorr {s : State} (h : s.Inv) {c : Corr} (hc : c.lenOk = true → c.wp.toNat < c.len.toNat) :
    (s.withCorr c).Inv :=
  { h with wp_lt := hc }

theorem State.Inv.withBm {s : State} (h : s.Inv) {m : Memory} (hm : Stored s.bm m) : (s.withBm m).Inv :=
  { h with memory_wf := hm.wf h.memory_wf, memory_inWindow := hm.inWindow h.memory_inWindow }

theorem State.Inv.complete {s : State} (h : s.Inv) (o : BitVec 8) (r : Results) : (s.complete o r).Inv :=
  { h with errCode_le := by simp }

theorem State.Inv.raiseError {s : State} (h : s.Inv) (o : BitVec 8) (e : CmdError) : (s.raiseError o e).Inv :=
  { h with errCode_le := e.code_le }

theorem reset_inv : State.reset.Inv where
  memory_wf := rfl
  memory_inWindow := rfl
  wp_lt := nofun
  framer := ⟨by decide, by decide, fun _ => rfl, nofun⟩
  errCode_le := by decide

theorem State.inv_resetBlock (s : State) : s.resetBlock.Inv :=
  reset_inv.congr rfl rfl rfl rfl rfl

/-! ### Commands -/

/-- A push keeps WP below a legal N (10_state.md R41). -/
theorem Corr.wp_push_lt {c : Corr} (hn : c.lenOk = true) (x : Word) : (c.push x).wp.toNat < (c.push x).len.toNat := by
  simp only [Corr.lenOk, Bool.and_eq_true, decide_eq_true_eq] at hn
  have hmax : c.len.toNat ≤ 64 := hn.2
  have hlt : (c.wp.toNat + 1) % c.len.toNat < c.len.toNat := Nat.mod_lt _ (by omega)
  show (BitVec.ofNat 6 ((c.wp.toNat + 1) % c.len.toNat)).toNat < c.len.toNat
  rw [BitVec.toNat_ofNat]
  omega

/-- A cleared correlator has WP = 0, so any legal N is above it (10_state.md R62 (a)). -/
theorem Corr.wp_clear_lt {c : Corr} (hn : c.clear.lenOk = true) : c.clear.wp.toNat < c.clear.len.toNat := by
  simp only [Corr.lenOk, Bool.and_eq_true, decide_eq_true_eq] at hn
  exact hn.1

/-- One bit under a legal configuration keeps the invariant: a capture starts short of its frame, grows by one bit, and
is dispatched into BM when it is complete. -/
theorem State.Inv.pushBit {s : State} (h : s.Inv) (hc : s.frm.configOk = true) (b : Bool) :
    (pushBit s b).state.Inv := by
  have hg : (s.frm.shiftIn b).Inv := h.framer.shiftIn b
  obtain (⟨-, ht⟩ | ht) | ⟨hs, ⟨hne, ht⟩ | ht⟩ := pushBit_cases s b <;> rw [ht]
  · exact h.withFrm hg
  · exact h.withFrm (hg.startCapture hc)
  · exact h.withFrm (hg.append hs hne)
  · obtain ⟨-, -, -, -, hdst⟩ := Framer.configOk_iff.mp hc
    have hst : Stored s.bm (bmWrite s.bm s.frm.dst.toNat ((s.frm.shiftIn b).append b).frameBits) :=
      .write _ _ .none (by rw [length_frameBits]; exact hdst)
    exact ((h.withBm hst).withFrm (f := ((s.frm.shiftIn b).append b).dispatched)
      (Framer.inv_dispatched hg.hfill_le hc)).congr rfl rfl rfl rfl rfl

theorem Pushed.inv {s u : State} (h : Pushed s u) (hc : s.frm.configOk = true) (hs : s.Inv) : u.Inv := by
  induction h with
  | none => exact hs
  | push b hp ih => exact ih.pushBit ((Framer.configOk_congr hp.framerOnly.2).trans hc) b

theorem Effect.inv {s u : State} {i : Instr} (h : Effect s i u) (hs : s.Inv) : u.Inv := by
  cases h with
  | corrClear => exact hs.withCorr Corr.wp_clear_lt
  | corrPush hn => exact hs.withCorr fun _ => Corr.wp_push_lt hn s.args.arg0
  | corrDetect hn =>
    exact (hs.withCorr (c := (s.corr.push s.args.arg0).rescored) fun _ => Corr.wp_push_lt hn s.args.arg0).congr
      rfl rfl rfl rfl rfl
  | frmReset => exact hs.withFrm (Framer.inv_resetCapture hs.framer.hfill_le hs.framer.frameLen_le)
  | frmPush _ hc _ hp => exact hp.inv hc hs
  | store _ hm => exact hs.withBm hm
  | decode _ hm => exact (hs.withBm hm).congr rfl rfl rfl rfl rfl
  | nop | corrScore | frmAck | vitGentab => exact hs.congr rfl rfl rfl rfl rfl

theorem State.Inv.exec {s t : State} (hs : s.Inv) {i : Instr} (h : exec i s = .next t) : t.Inv := by
  obtain ⟨e, rfl⟩ | ⟨u, r, he, rfl⟩ := exec_effect h
  · exact hs.raiseError _ e
  · exact (he.inv hs).complete _ r

theorem State.Inv.runWord {s t : State} (hs : s.Inv) {w : Word} (h : runWord w s = .next t) : t.Inv := by
  unfold Machine.runWord at h
  split at h
  · exact hs.exec h
  · cases h
    exact hs.raiseError _ _

/-! ### The host's turn -/

theorem controlTarget_ne_bm (o w : Nat) : controlTarget o ≠ .bm w := by
  unfold controlTarget
  split <;> nofun

/-- An offset reaches only the 256 words of BM (20_memory.md R83). -/
theorem target_bm_lt {off : BitVec 12} {w : Nat} (h : target off = .bm w) : w < 256 := by
  unfold target at h
  dsimp only at h
  split at h
  · exact absurd h (controlTarget_ne_bm _ _)
  · split at h
    · cases h
    · split at h
      · cases h
      · split at h
        · cases h
          omega
        · cases h

theorem State.Inv.configureFrm {s : State} (h : s.Inv) {f : Framer} (hh : f.hfill = s.frm.hfill)
    (hl : f.frameLen = s.frm.frameLen) : (s.configureFrm f).Inv :=
  h.withFrm (Framer.inv_resetCapture (hh ▸ h.framer.hfill_le) (hl ▸ h.framer.frameLen_le))

theorem State.Inv.writeStatus {s : State} (h : s.Inv) (v : Word) : (s.writeStatus v).Inv :=
  h.congr rfl rfl rfl rfl rfl

theorem State.Inv.writeCtrl {s : State} (h : s.Inv) (v : Word) : (s.writeCtrl v).Inv := by
  unfold State.writeCtrl
  split
  · exact s.inv_resetBlock
  · exact h.congr rfl rfl rfl rfl rfl

theorem State.Inv.putWord {s : State} (h : s.Inv) {w : Nat} (hw : w < 256) (v : Word) :
    (s.withBm (bmPutWord s.bm w v)).Inv :=
  { h with
    memory_wf := wf_bmPutWord w v h.memory_wf
    memory_inWindow := inWindow_bmPutWord v hw h.memory_inWindow }

/-- Of the host's writes only those to CTRL, CORR_LEN, the framer's configuration and BM reach what the invariant speaks
of. -/
theorem State.Inv.writeTarget {s : State} (h : s.Inv) (v : Word) {t : Target} (ht : ∀ w, t = .bm w → w < 256) :
    (s.writeTarget v t).Inv := by
  cases t with
  | ctrl => exact h.writeCtrl v
  | corrLen => exact h.withCorr Corr.wp_clear_lt
  | frmPatLo | frmPatHi | frmCfg | frmFlen | frmDst => exact h.configureFrm rfl rfl
  | bm w => exact h.putWord (ht w rfl) v
  | _ => exact h.congr rfl rfl rfl rfl rfl

theorem State.Inv.hostWrite {s : State} (h : s.Inv) (off : BitVec 12) (v : Word) : (s.hostWrite off v).Inv := by
  unfold State.hostWrite
  split
  · exact h.congr rfl rfl rfl rfl rfl
  · exact h.writeTarget v fun w => target_bm_lt

theorem State.Inv.hostRead {s : State} (h : s.Inv) (off : BitVec 12) : (s.hostRead off).Inv := by
  unfold State.hostRead
  split <;> exact h.congr rfl rfl rfl rfl rfl

theorem State.Inv.poll {s : State} (h : s.Inv) (rest : List HostOp) : (s.poll rest).Inv := by
  unfold State.poll
  split <;> exact h.congr rfl rfl rfl rfl rfl

theorem State.Inv.withHost {s : State} (h : s.Inv) (rest : List HostOp) : (s.withHost rest).Inv :=
  h.congr rfl rfl rfl rfl rfl

theorem State.Inv.hostCycle {s t : State} (h : s.Inv) (ht : hostCycle s = .next t) : t.Inv := by
  unfold Machine.hostCycle at ht
  split at ht <;> cases ht
  · exact h
  · exact (h.withHost _).hostWrite _ _
  · exact (h.withHost _).hostRead _
  · exact h.poll _
  · exact h.withHost _
  · exact State.inv_resetBlock _

theorem State.Inv.completingCycle {s t : State} (h : s.Inv) {w : Word} (ht : completingCycle w s = .next t) :
    t.Inv := by
  unfold Machine.completingCycle at ht
  split at ht
  · exact ((h.withHost _).writeStatus _).runWord ht
  · obtain ⟨u, hu⟩ := runWord_next w s
    rw [hu, andThen_next] at ht
    exact (h.runWord hu).hostCycle ht

/-- Settles O7: each of the three kinds of cycle keeps the invariant, since every command's effect, both completions and
every transaction of the host do. -/
theorem stepKeepsInvariant : Obligations.StepKeepsInvariant := by
  intro s t h ht
  unfold step cycle at ht
  split at ht
  · exact h.hostCycle ht
  · exact h.completingCycle ht
  · next w left _ =>
    have hnear : (s.withInFlight (some ⟨w, left⟩)).Inv := h.congr rfl rfl rfl rfl rfl
    exact hnear.hostCycle ht

end Sys2Proof.Machine
end

/-! ## The host window

SUPPORT. Where an offset leads, and what an access while idle comes to. -/

section
namespace Sys2Proof.Machine

/-- The registers of offsets `0x000`..`0x1FC` are read off the table, whatever offset bits [1:0] are. -/
theorem target_of_lt {off : BitVec 12} {o : Nat} (ho : off.toNat / 4 * 4 = o) (h : o < 0x200) :
    target off = controlTarget o := by
  simp [target, ho, h]

theorem target_symbuf {off : BitVec 12} {i : Nat} (hi : i < 64) (ho : off.toNat / 4 * 4 = 0x300 + 4 * i) :
    target off = .symbuf i := by
  simp only [target, ho]
  rw [if_neg (by omega), if_neg (by omega), if_pos (by omega)]
  congr 1
  omega

theorem target_ref {i : Nat} (hi : i < 64) : target (BitVec.ofNat 12 (0x200 + 4 * i)) = .ref i := by
  have ho : (BitVec.ofNat 12 (0x200 + 4 * i)).toNat / 4 * 4 = 0x200 + 4 * i := by
    rw [BitVec.toNat_ofNat]
    omega
  simp only [target, ho]
  rw [if_neg (by omega), if_pos (by omega)]
  congr 1
  omega

theorem target_vitTab {e : Nat} (he : e < 512) : target (BitVec.ofNat 12 (0x800 + 4 * e)) = .vitTab e := by
  have ho : (BitVec.ofNat 12 (0x800 + 4 * e)).toNat / 4 * 4 = 0x800 + 4 * e := by
    rw [BitVec.toNat_ofNat]
    omega
  simp only [target, ho]
  rw [if_neg (by omega), if_neg (by omega), if_neg (by omega), if_neg (by omega)]
  congr 1
  omega

/-- The offsets below `0x200` that 10_state.md R63 gives no register (R60). -/
def unmappedControl (o : Nat) : Prop :=
  o = 0x01C ∨ o = 0x038 ∨ o = 0x03C ∨ (0x050 ≤ o ∧ o ≤ 0x05C) ∨ (0x090 ≤ o ∧ o ≤ 0x09C)
  ∨ (0x0AC ≤ o ∧ o ≤ 0x0BC) ∨ (0x0CC ≤ o ∧ o ≤ 0x0DC) ∨ (0x0F0 ≤ o ∧ o ≤ 0x1FC)

theorem controlTarget_of_unmapped {o : Nat} (h : unmappedControl o) : controlTarget o = .unmapped := by
  unfold unmappedControl at h
  unfold controlTarget
  split
  case h_40 => rfl
  all_goals omega

theorem State.hostWrite_of_idle {s : State} (hi : s.inFlight = none) {off : BitVec 12} {t : Target}
    (ht : target off = t) (v : Word) : s.hostWrite off v = s.writeTarget v t := by
  simp [State.hostWrite, State.busy, hi, ht]

theorem State.hostRead_of_idle {s : State} (hi : s.inFlight = none) {off : BitVec 12} {t : Target}
    (ht : target off = t) : (s.hostRead off).rdata = some (s.readTarget t) := by
  simp [State.hostRead, State.busy, hi, ht]

/-- An offset whose target ignores writes. -/
theorem State.ignored_of_idle {s : State} (hi : s.inFlight = none) {off : BitVec 12} {t : Target}
    (ht : target off = t) {v : Word} (hw : s.writeTarget v t = s) :
    s.hostWrite off v = s ∧ (s.hostRead off).rdata = some (s.readTarget t) :=
  ⟨(State.hostWrite_of_idle hi ht v).trans hw, State.hostRead_of_idle hi ht⟩

/-- The same for a register below `0x200`, whatever offset bits [1:0] are. -/
theorem State.ignored_register {s : State} (hi : s.inFlight = none) {off : BitVec 12} {v : Word} {o : Nat} (t : Target)
    (hlt : o < 0x200 := by decide) (hc : controlTarget o = t := by rfl) (hw : s.writeTarget v t = s := by rfl) :
    off.toNat / 4 * 4 = o → s.hostWrite off v = s ∧ (s.hostRead off).rdata = some (s.readTarget t) :=
  fun ho => State.ignored_of_idle hi ((target_of_lt ho hlt).trans hc) hw

/-- Only CTRL and CMD reach the command in progress. -/
theorem State.inFlight_writeTarget (s : State) (v : Word) {t : Target} (hctrl : t ≠ .ctrl) (hcmd : t ≠ .cmd) :
    (s.writeTarget v t).inFlight = s.inFlight := by
  cases t with
  | ctrl => exact absurd rfl hctrl
  | cmd => exact absurd rfl hcmd
  | _ => rfl

/-- A write and the read after it, both while idle. -/
theorem State.readBack_of_idle {s : State} (hi : s.inFlight = none) {off : BitVec 12} {t : Target}
    (ht : target off = t) (hctrl : t ≠ .ctrl) (hcmd : t ≠ .cmd) (v : Word) :
    ((s.hostWrite off v).hostRead off).rdata = some ((s.writeTarget v t).readTarget t) := by
  rw [State.hostWrite_of_idle hi ht]
  exact State.hostRead_of_idle ((s.inFlight_writeTarget v hctrl hcmd).trans hi) ht

end Sys2Proof.Machine
end

/-! ## Host accesses while idle -/

section
namespace Sys2Proof.Machine

/-- Settles O50: STATUS is one of the two registers that BUSY does not guard. -/
theorem statusWriteClearsWrittenOnes : Obligations.StatusWriteClearsWrittenOnes := by
  intro s v
  have ht : target 0x008#12 = .status := rfl
  simp [State.hostWrite, ht, State.writeTarget, State.writeStatus, State.withStatus]

/-- Settles O58: the latency is the free value drawn by the write. -/
theorem cmdWriteIssuesTheCommand : Obligations.CmdWriteIssuesTheCommand := by
  intro s v hi
  have ht : target 0x00C#12 = .cmd := rfl
  exact ⟨⟨Config.extraLatency s.draws, State.hostWrite_of_idle hi ht v⟩, State.hostRead_of_idle hi ht⟩

/-- Settles O59: each of the six offsets leads to a write that discards progress. -/
theorem configurationWritesDiscardProgress : Obligations.ConfigurationWritesDiscardProgress := by
  intro s v hi
  exact ⟨State.hostWrite_of_idle (t := .corrLen) hi rfl v, State.hostWrite_of_idle (t := .frmPatLo) hi rfl v,
    State.hostWrite_of_idle (t := .frmPatHi) hi rfl v, State.hostWrite_of_idle (t := .frmCfg) hi rfl v,
    State.hostWrite_of_idle (t := .frmFlen) hi rfl v, State.hostWrite_of_idle (t := .frmDst) hi rfl v⟩

/-- Settles O57: the offsets lead to targets that no write changes. -/
theorem unmappedOffsetsAreIgnored : Obligations.UnmappedOffsetsAreIgnored := by
  intro s off v hi
  dsimp only
  refine ⟨fun h => ?_, ?_, fun i h ho => ?_⟩
  · have ht : target off = .unmapped :=
      (target_of_lt rfl (by omega)).trans (controlTarget_of_unmapped h)
    exact State.ignored_of_idle hi ht rfl
  · simp only [List.forall_mem_cons]
    exact ⟨State.ignored_register hi .id, State.ignored_register hi .res0,
      State.ignored_register hi .res1, State.ignored_register hi .res2,
      State.ignored_register hi .res3, State.ignored_register hi .bitCount,
      State.ignored_register hi .corrScore, State.ignored_register hi .corrWp,
      State.ignored_register hi .frameLen, State.ignored_register hi .frameTs,
      State.ignored_register hi .framePatId, State.ignored_register hi .frmHistLo,
      State.ignored_register hi .frmHistHi, State.ignored_register hi .frmHfill,
      State.ignored_register hi .frmCcount, nofun⟩
  · have hread : s.readTarget (.symbuf i) = s.corr.symbuf[i] := dif_pos h
    rw [← hread]
    exact State.ignored_of_idle hi (target_symbuf h ho) rfl

end Sys2Proof.Machine
end

/-! ## Read-write registers

SUPPORT. A register read back is the word written, masked to the defined fields (10_state.md R61). -/

section
namespace Sys2Proof.Machine

/-- The word whose ones are the `n` bits of the field at bit `lo`. -/
def fieldMask (lo n : Nat) : Word := (BitVec.allOnes n).setWidth 32 <<< lo

/-- A field stored and put back in its place is the written word under the field's mask. -/
theorem field_eq_and (v : Word) (lo n : Nat) : (v.extractLsb' lo n).setWidth 32 <<< lo = v &&& fieldMask lo n := by
  apply BitVec.eq_of_getLsbD_eq
  intro j hj
  by_cases hlo : j < lo
  · simp [fieldMask, hlo]
  · have hplace : lo + (j - lo) = j := by omega
    simp [fieldMask, hj, hlo, hplace, Bool.and_comm]

theorem lowField_eq_and (v : Word) (n : Nat) : (v.extractLsb' 0 n).setWidth 32 = v &&& fieldMask 0 n := by
  rw [← field_eq_and, BitVec.shiftLeft_zero]

theorem bitAt_eq_and (v : Word) (i : Nat) : bitAt (v.getLsbD i) i = v &&& fieldMask i 1 := by
  have hbit : BitVec.ofBool (v.getLsbD i) = v.extractLsb' i 1 := by
    apply BitVec.eq_of_getLsbD_eq
    intro j hj
    obtain rfl : j = 0 := by omega
    simp
  rw [bitAt, hbit, field_eq_and]

/-- A register of 32 defined bits. -/
theorem eq_and_full (v : Word) : v = v &&& 0xFFFFFFFF#32 := BitVec.and_allOnes.symm

theorem VitEntry.toWord_of_fields (v : Word) :
    VitEntry.toWord ⟨v.extractLsb' 0 6, v.extractLsb' 8 4⟩ = v &&& 0x00000F3F#32 := by
  rw [VitEntry.toWord, lowField_eq_and, field_eq_and, ← BitVec.and_or_distrib_left]
  rfl

/-- FRM_CFG (R45). -/
theorem Framer.cfgWord_of_fields {f : Framer} (v : Word) (hl : f.patLen = v.extractLsb' 0 7)
    (he : f.maxErr = v.extractLsb' 8 6) (hp : f.preempt = v.getLsbD 16) (hs : f.incSync = v.getLsbD 17)
    (hi : f.patId = v.extractLsb' 24 8) : f.cfgWord = v &&& 0xFF033F7F#32 := by
  rw [Framer.cfgWord, hl, he, hp, hs, hi]
  simp only [lowField_eq_and, field_eq_and, bitAt_eq_and, ← BitVec.and_or_distrib_left]
  rfl

/-- VIT_CFG (R51). -/
theorem Vit.cfgWord_of_fields {u : Vit} (v : Word) (hk : u.k = v.extractLsb' 0 3) (hn : u.n = v.extractLsb' 4 3)
    (hm : u.m = v.extractLsb' 8 3) : u.cfgWord = v &&& 0x00000777#32 := by
  rw [Vit.cfgWord, hk, hn, hm]
  simp only [lowField_eq_and, field_eq_and, ← BitVec.and_or_distrib_left]
  rfl

/-- CRC_CFG (R57). -/
theorem Crc.cfgWord_of_fields {c : Crc} (v : Word) (hw : c.w = v.extractLsb' 0 6) (ht : c.trial = v.extractLsb' 8 2) :
    c.cfgWord = v &&& 0x0000033F#32 := by
  rw [Crc.cfgWord, hw, ht]
  simp only [lowField_eq_and, field_eq_and, ← BitVec.and_or_distrib_left]
  rfl

/-- CTRL (R32): SRST reads 0. -/
theorem State.ctrlWord_of_fields {s : State} (v : Word)
    (hc : s.ctrl = ⟨v.getLsbD 1, v.getLsbD 2, v.getLsbD 3, v.getLsbD 4⟩) : s.ctrlWord = v &&& 0x0000001E#32 := by
  rw [State.ctrlWord, hc]
  simp only [bitAt_eq_and, ← BitVec.and_or_distrib_left]
  rfl

theorem VitEntry.next_toWord (e : VitEntry) : e.toWord.extractLsb' 0 6 = e.next := by
  apply BitVec.eq_of_getLsbD_eq
  intro j hj
  have h8 : j < 8 := by omega
  have h32 : j < 32 := by omega
  simp [VitEntry.toWord, hj, h8, h32]

theorem VitEntry.out_toWord (e : VitEntry) : e.toWord.extractLsb' 8 4 = e.out := by
  apply BitVec.eq_of_getLsbD_eq
  intro j hj
  have h32 : 8 + j < 32 := by omega
  have hnext : e.next.getLsbD (8 + j) = false := BitVec.getLsbD_of_ge _ _ (by omega)
  simp [VitEntry.toWord, hj, h32, hnext]

/-- A table entry shows nothing but its two fields. -/
theorem VitEntry.toWord_and_reserved (e : VitEntry) : e.toWord &&& 0xFFFFF0C0#32 = 0#32 := by
  have hfields : e.toWord = e.toWord &&& 0x00000F3F#32 := by
    rw [← VitEntry.toWord_of_fields, VitEntry.next_toWord, VitEntry.out_toWord]
  rw [hfields, BitVec.and_assoc]
  exact BitVec.and_zero

/-- A register read back while idle, its offset and its defined fields given. -/
theorem State.readBack_fields {s : State} (hi : s.inFlight = none) {off : BitVec 12} {v mask : Word} (t : Target)
    (hm : (s.writeTarget v t).readTarget t = v &&& mask) (ht : target off = t := by rfl)
    (hctrl : t ≠ .ctrl := by nofun) (hcmd : t ≠ .cmd := by nofun) :
    ((s.hostWrite off v).hostRead off).rdata = some (v &&& mask) :=
  hm ▸ State.readBack_of_idle hi ht hctrl hcmd v

theorem State.writeTarget_ctrl {s : State} {v : Word} (hv : v.getLsbD 0 = false) :
    s.writeTarget v .ctrl = { s with ctrl := ⟨v.getLsbD 1, v.getLsbD 2, v.getLsbD 3, v.getLsbD 4⟩ } := by
  rw [State.writeTarget, State.writeCtrl, if_neg (by simp only [hv, Bool.false_eq_true, not_false_eq_true])]
  rfl

theorem State.writeTarget_ref (s : State) (v : Word) {i : Nat} (h : i < 64) :
    s.writeTarget v (.ref i) = { s with corr := { s.corr with ref := s.corr.ref.set i v h } } := by
  simp [State.writeTarget, State.withCorr, putSlot, h]

theorem State.writeTarget_vitTab (s : State) (v : Word) {e : Nat} (h : e < 512) :
    s.writeTarget v (.vitTab e) =
      { s with vit := { s.vit with tab := s.vit.tab.set e ⟨v.extractLsb' 0 6, v.extractLsb' 8 4⟩ h } } := by
  simp [State.writeTarget, State.withVit, putSlot, h]

theorem State.readTarget_vitTab (s : State) {e : Nat} (h : e < 512) :
    s.readTarget (.vitTab e) = s.vit.tab[e].toWord := by
  simp [State.readTarget, slot, h]

/-- Settles O56: every offset leads to its register, whose write and read agree on the defined fields. -/
theorem registersReadBackTheirFields : Obligations.RegistersReadBackTheirFields := by
  intro s v hi
  refine ⟨?_, fun hv => ⟨?_, ?_⟩, fun i h => ⟨?_, ?_⟩, fun e h => ⟨?_, ?_⟩, ?_, fun e h => ?_, ?_⟩
  · simp only [List.forall_mem_cons]
    exact ⟨State.readBack_fields hi .arg0 (eq_and_full v), State.readBack_fields hi .arg1 (eq_and_full v),
      State.readBack_fields hi .arg2 (eq_and_full v), State.readBack_fields hi .ccnt (eq_and_full v),
      State.readBack_fields hi .corrLen (lowField_eq_and v 7), State.readBack_fields hi .corrThresh (eq_and_full v),
      State.readBack_fields hi .frmPatLo (eq_and_full v), State.readBack_fields hi .frmPatHi (eq_and_full v),
      State.readBack_fields hi .frmCfg (Framer.cfgWord_of_fields v rfl rfl rfl rfl rfl),
      State.readBack_fields hi .frmFlen (lowField_eq_and v 13), State.readBack_fields hi .frmDst (eq_and_full v),
      State.readBack_fields hi .vitCfg (Vit.cfgWord_of_fields v rfl rfl rfl),
      State.readBack_fields hi .vitG0 (lowField_eq_and v 7), State.readBack_fields hi .vitG1 (lowField_eq_and v 7),
      State.readBack_fields hi .bchT (lowField_eq_and v 4), State.readBack_fields hi .bchGenLo (eq_and_full v),
      State.readBack_fields hi .bchGenHi (eq_and_full v),
      State.readBack_fields hi .crcCfg (Crc.cfgWord_of_fields v rfl rfl),
      State.readBack_fields hi .crcPoly (eq_and_full v), State.readBack_fields hi .crcInit (eq_and_full v),
      State.readBack_fields hi .crcXorOut (eq_and_full v), nofun⟩
  · rw [State.hostWrite_of_idle (t := .ctrl) hi rfl, State.writeTarget_ctrl hv]
    rw [State.hostRead_of_idle (t := .ctrl) _ rfl, State.readTarget, State.ctrlWord_of_fields v rfl]
    exact hi
  · exact (State.hostWrite_of_idle (t := .ctrl) hi rfl v).trans (State.writeTarget_ctrl hv)
  · rw [State.readBack_of_idle hi (target_ref h) nofun nofun]
    exact congrArg some (slot_putSlot_self _ v _ h)
  · exact (State.hostWrite_of_idle hi (target_ref h) v).trans (s.writeTarget_ref v h)
  · rw [State.readBack_of_idle hi (target_vitTab h) nofun nofun, State.readTarget_vitTab _ h,
      State.writeTarget_vitTab s v h]
    simp [VitEntry.toWord_of_fields]
  · exact (State.hostWrite_of_idle hi (target_vitTab h) v).trans (s.writeTarget_vitTab v h)
  · exact State.hostRead_of_idle (t := .ccnt) hi rfl
  · refine ⟨s.vit.tab[e].toWord, ?_, VitEntry.next_toWord _, VitEntry.out_toWord _, VitEntry.toWord_and_reserved _⟩
    rw [State.hostRead_of_idle hi (target_vitTab h), State.readTarget_vitTab s h]
  · exact ⟨State.hostWrite_of_idle (t := .arg0) hi rfl v, State.hostWrite_of_idle (t := .arg1) hi rfl v,
      State.hostWrite_of_idle (t := .arg2) hi rfl v, State.hostWrite_of_idle (t := .ccnt) hi rfl v,
      State.hostWrite_of_idle (t := .corrThresh) hi rfl v, State.hostWrite_of_idle (t := .vitCfg) hi rfl v,
      State.hostWrite_of_idle (t := .vitG0) hi rfl v, State.hostWrite_of_idle (t := .vitG1) hi rfl v,
      State.hostWrite_of_idle (t := .bchT) hi rfl v, State.hostWrite_of_idle (t := .bchGenLo) hi rfl v,
      State.hostWrite_of_idle (t := .bchGenHi) hi rfl v, State.hostWrite_of_idle (t := .crcCfg) hi rfl v,
      State.hostWrite_of_idle (t := .crcPoly) hi rfl v, State.hostWrite_of_idle (t := .crcInit) hi rfl v,
      State.hostWrite_of_idle (t := .crcXorOut) hi rfl v⟩

end Sys2Proof.Machine
end

/-! ## Each unit under its own commands -/

section
namespace Sys2Proof.Machine

theorem FramerOnly.corr {s t : State} (h : FramerOnly s t) : t.corr = s.corr := by
  rw [h.1]
  rfl

theorem FramerOnly.vit {s t : State} (h : FramerOnly s t) : t.vit = s.vit := by
  rw [h.1]
  rfl

theorem FramerOnly.sync {s t : State} (h : FramerOnly s t) : t.status.sync = s.status.sync := by
  rw [h.1]
  rfl

theorem Effect.corr {s u : State} {i : Instr} (h : Effect s i u) (hclear : i ≠ .corrClear) (hpush : i ≠ .corrPush)
    (hscore : i ≠ .corrScore) : u.corr = s.corr := by
  cases h with
  | corrClear => exact absurd rfl hclear
  | corrPush | corrDetect => exact absurd rfl hpush
  | corrScore => exact absurd rfl hscore
  | frmPush _ _ _ hp => exact hp.framerOnly.corr
  | _ => rfl

theorem Effect.sync {s u : State} {i : Instr} (h : Effect s i u) (hpush : i ≠ .corrPush) :
    u.status.sync = s.status.sync := by
  cases h with
  | corrDetect => exact absurd rfl hpush
  | frmPush _ _ _ hp => exact hp.framerOnly.sync
  | _ => rfl

theorem Effect.frm {s u : State} {i : Instr} (h : Effect s i u) (hreset : i ≠ .frmReset) (hrange : i ≠ .frmPushrange)
    (hbit : ∀ b, i ≠ .frmPushbit b) : u.frm = s.frm := by
  cases h with
  | frmReset => exact absurd rfl hreset
  | frmPush hi =>
    obtain ⟨b, rfl⟩ | rfl := hi
    · exact absurd rfl (hbit b)
    · exact absurd rfl hrange
  | _ => rfl

theorem Effect.vit {s u : State} {i : Instr} (h : Effect s i u) (hgentab : i ≠ .vitGentab) : u.vit = s.vit := by
  cases h with
  | vitGentab => exact absurd rfl hgentab
  | frmPush _ _ _ hp => exact hp.framerOnly.vit
  | _ => rfl

/-- BM changes only under a command that stores (20_memory.md R85) and under the framer's pushes, which dispatch. -/
theorem Effect.bm {s u : State} {i : Instr} (h : Effect s i u)
    (hi : i ∈ [.nop, .corrClear, .corrPush, .corrScore, .frmReset, .frmAck, .vitGentab]) : u.bm = s.bm := by
  cases h with
  | frmPush hpush =>
    obtain ⟨b, rfl⟩ | rfl := hpush
    · simp at hi
    · simp at hi
  | store hstore => fin_cases hstore <;> simp at hi
  | decode hdecode => fin_cases hdecode <;> simp at hi
  | _ => rfl

/-- A push that would dispatch over a pending frame is turned away (42_framer.md R170, R172), so only FRM_ACK can lower
FRAME_READY. -/
theorem Effect.frameReady {s u : State} {i : Instr} (h : Effect s i u) (hack : i ≠ .frmAck)
    (hs : s.status.frameReady = true) : u.status.frameReady = true := by
  cases h with
  | frmAck => exact absurd rfl hack
  | frmPush _ _ hr => exact absurd (hs.symm.trans hr) nofun
  | _ => exact hs

/-- Settles O48: an error changes no unit, and each effect of a success stays inside the command's own unit. -/
theorem unitsChangeOnlyUnderTheirCommands : Obligations.UnitsChangeOnlyUnderTheirCommands := by
  intro i s t h
  obtain ⟨e, rfl⟩ | ⟨u, r, he, rfl⟩ := exec_effect h
  · exact ⟨fun _ _ _ => rfl, fun _ => rfl, fun _ _ _ => rfl, fun _ => rfl, fun _ _ => rfl,
      fun hs ht => absurd (hs.symm.trans ht) nofun⟩
  · refine ⟨he.corr, he.sync, he.frm, he.vit, fun hi a => ?_, fun hs ht => ?_⟩
    · exact congrArg (Memory.read · a) (he.bm (by simpa using hi))
    · by_contra hack
      exact absurd ((he.frameReady hack hs).symm.trans ht) nofun

end Sys2Proof.Machine
end

/-! ## Words of BM

SUPPORT. The bits of a word of BM as the commands address them (20_memory.md R81, R83). -/

section
namespace Sys2Proof.Machine

theorem bitByte_of_word {w j : Nat} (hj : j < 32) : bitByte (32 * w + j) = Config.bmBase + 4 * w + (31 - j) / 8 := by
  unfold bitByte
  omega

theorem bitLane_of_word {w j : Nat} (hj : j < 32) : bitLane (32 * w + j) = (31 - j) % 8 := by
  unfold bitLane
  omega

/-- Bit `i` of a word stands in its byte `i / 8` (R81). -/
theorem getLsbD_bmWord (m : Memory) (w : Nat) {i : Nat} (hi : i < 32) :
    (bmWord m w).getLsbD i = (Memory.read m (Config.bmBase + 4 * w + i / 8)).getLsbD (i % 8) := by
  simp only [bmWord, BitVec.getLsbD_append]
  split_ifs <;> congr 2 <;> omega

/-- A word read by the host shows the lowest bit address as its most significant bit (R83). -/
theorem getLsbD_bmWord_msbFirst (m : Memory) (w : Nat) {j : Nat} (hj : j < 32) :
    (bmWord m w).getLsbD (31 - j) = bmBit m (32 * w + j) := by
  rw [getLsbD_bmWord m w (by omega), bmBit, bitByte_of_word hj, bitLane_of_word hj]

/-- A word stored puts its bits `[8l+7:8l]` in its byte `l` (R81). -/
theorem read_bmPutWord_lane (m : Memory) (w : Nat) (v : Word) {l : Nat} (hl : l < 4) :
    Memory.read (bmPutWord m w v) (Config.bmBase + 4 * w + l) = v.extractLsb' (8 * l) 8 := by
  unfold bmPutWord
  interval_cases l <;> simp [Memory.read_write]

theorem read_bmPutWord_ne (m : Memory) (w : Nat) (v : Word) {o : Nat}
    (ho : ∀ l, l < 4 → o ≠ Config.bmBase + 4 * w + l) : Memory.read (bmPutWord m w v) o = Memory.read m o := by
  unfold bmPutWord
  rw [Memory.read_write_ne _ _ (ho 3 (by omega)), Memory.read_write_ne _ _ (ho 2 (by omega)),
    Memory.read_write_ne _ _ (ho 1 (by omega))]
  exact Memory.read_write_ne m _ (ho 0 (by omega))

theorem bmBit_bmPutWord_self (m : Memory) (w : Nat) (v : Word) {j : Nat} (hj : j < 32) :
    bmBit (bmPutWord m w v) (32 * w + j) = v.getLsbD (31 - j) := by
  have hlane : (31 - j) % 8 < 8 := Nat.mod_lt _ (by omega)
  rw [bmBit, bitByte_of_word hj, bitLane_of_word hj, read_bmPutWord_lane m w v (by omega), BitVec.getLsbD_extractLsb',
    decide_eq_true hlane, Bool.true_and, Nat.div_add_mod]

/-- The bytes of two words are apart. -/
theorem bmBit_bmPutWord_ne (m : Memory) {w x : Nat} (v : Word) (hx : x / 32 ≠ w) :
    bmBit (bmPutWord m w v) x = bmBit m x := by
  unfold bmBit
  rw [read_bmPutWord_ne m w v fun l hl => by unfold bitByte; omega]

/-- A word stored reads back. -/
@[simp] theorem bmWord_bmPutWord_self (m : Memory) (w : Nat) (v : Word) : bmWord (bmPutWord m w v) w = v := by
  apply BitVec.eq_of_getLsbD_eq
  intro i hi
  have hmirror : i = 31 - (31 - i) := by omega
  rw [hmirror, getLsbD_bmWord_msbFirst _ w (by omega), bmBit_bmPutWord_self m w v (by omega)]

theorem target_bm {w : Nat} (hw : w < 256) : target (BitVec.ofNat 12 (0x400 + 4 * w)) = .bm w := by
  have ho : (BitVec.ofNat 12 (0x400 + 4 * w)).toNat / 4 * 4 = 0x400 + 4 * w := by
    rw [BitVec.toNat_ofNat]
    omega
  simp only [target, ho]
  rw [if_neg (by omega), if_neg (by omega), if_neg (by omega), if_pos (by omega)]
  congr 1
  omega

/-- Settles O55: the host's word access goes to the four bytes that hold the word's 32 bit addresses. -/
theorem bmWordsAreMsbFirst : Obligations.BmWordsAreMsbFirst := by
  intro s w v hw hi
  dsimp only
  have hwrite : s.hostWrite (BitVec.ofNat 12 (0x400 + 4 * w)) v = s.withBm (bmPutWord s.bm w v) :=
    State.hostWrite_of_idle hi (target_bm hw) v
  rw [State.readBack_of_idle hi (target_bm hw) nofun nofun, hwrite]
  refine ⟨⟨bmWord s.bm w, State.hostRead_of_idle hi (target_bm hw), fun j hj => getLsbD_bmWord_msbFirst s.bm w hj⟩,
    rfl, fun j hj => bmBit_bmPutWord_self s.bm w v hj, fun x hx => bmBit_bmPutWord_ne s.bm v hx, ?_⟩
  exact congrArg some (bmWord_bmPutWord_self s.bm w v)

end Sys2Proof.Machine
end

/-! ## Stops and reads -/

section
namespace Sys2Proof.Machine

/-- The command in progress completes without touching the host's transactions to come. -/
theorem host_of_runWord {w : Word} {s t : State} (h : runWord w s = .next t) : t.host = s.host := by
  unfold runWord at h
  split at h
  · obtain ⟨-, -, -, -, -, hhost, -⟩ := commandsKeepOperandsAndConfiguration _ _ _ h
    exact hhost
  · cases h
    rfl

/-- `o`, an outcome reached with the transactions `ops` to come, is a next state or the refusal of a transaction narrower
than a word (20_memory.md R80; log 11). -/
def OnlyNarrowStops (ops : List HostOp) (o : StepResult) : Prop :=
  (∃ t, o = .next t) ∨ ∃ off rest, ops = .narrow off :: rest ∧ o = .refused (.narrowAccess off)

theorem onlyNarrowStops_hostCycle (s : State) : OnlyNarrowStops s.host (hostCycle s) := by
  unfold hostCycle
  split
  case h_7 off rest hhost => exact .inr ⟨off, rest, hhost, rfl⟩
  all_goals exact .inl ⟨_, rfl⟩

theorem onlyNarrowStops_completingCycle (w : Word) (s : State) : OnlyNarrowStops s.host (completingCycle w s) := by
  unfold completingCycle
  split
  · exact .inl (runWord_next w _)
  · obtain ⟨u, hu⟩ := runWord_next w s
    rw [hu, andThen_next, ← host_of_runWord hu]
    exact onlyNarrowStops_hostCycle u

/-- Settles O9: in each of the three kinds of cycle only the host's turn can stop. -/
theorem onlyNarrowTransactionsStop : Obligations.OnlyNarrowTransactionsStop := by
  intro s
  unfold step cycle
  split
  · exact onlyNarrowStops_hostCycle s
  · exact onlyNarrowStops_completingCycle _ s
  · next w left _ => exact onlyNarrowStops_hostCycle (s.withInFlight (some ⟨w, left⟩))

/-- Settles O52: a read during BUSY draws a free value, every other read shows a register. -/
theorem readsHaveNoSideEffect : Obligations.ReadsHaveNoSideEffect := by
  intro s off
  unfold State.hostRead
  split
  · exact ⟨Config.busyRead s.draws, s.draws + 1, rfl⟩
  · exact ⟨s.readTarget (target off), s.draws, rfl⟩

end Sys2Proof.Machine
end

/-! ## Command words

SUPPORT. The decoder's table against the encoder and against the description of a legal word (30_encoding.md R111 to
R115). -/

section
namespace Sys2Proof

theorem decode_encode (i : Instr) : decode (encode i) = .ok i := by
  cases i with
  | frmPushbit b => cases b <;> decide
  | _ => decide

/-- A decoded command comes from a row of the table whose pattern the word meets under the row's mask (R115). -/
theorem exists_row_of_decode {w : Word} {i : Instr} (h : decode w = .ok i) :
    ∃ r ∈ opcodeTable, w &&& r.mask = r.pattern ∧ r.command (bitOf w) = i := by
  unfold decode at h
  split at h
  · cases h
  · next r hfind =>
    split at h
    · next hmatch =>
      cases h
      exact ⟨r, List.mem_of_find?_eq_some hfind, hmatch, rfl⟩
    · cases h

/-- A row of format N is met by its opcode alone. -/
theorem eq_encode_of_rowN {w opc : Word} {i : Instr} (hopc : opc = encode i)
    (h : w &&& (rowN opc i).mask = (rowN opc i).pattern) : w = encode i := by
  rw [← hopc]
  exact BitVec.and_allOnes.symm.trans h

/-- The row of format B leaves bit 8, BIT, free. -/
theorem eq_encode_of_rowB {w : Word} (h : w &&& 0xFFFFFEFF#32 = 0x11#32) : w = encode (.frmPushbit (bitOf w)) := by
  have hbit : w &&& 0x100#32 = if bitOf w then 0x100#32 else 0#32 := BitVec.and_twoPow w 8
  calc w = w &&& (0x100#32 ||| 0xFFFFFEFF#32) := BitVec.and_allOnes.symm
    _ = (w &&& 0x100#32) ||| (w &&& 0xFFFFFEFF#32) := BitVec.and_or_distrib_left
    _ = encode (.frmPushbit (bitOf w)) := by rw [hbit, h]; rfl

theorem eq_encode_of_row {w : Word} :
    ∀ r ∈ opcodeTable, w &&& r.mask = r.pattern → w = encode (r.command (bitOf w)) := by
  simp only [opcodeTable, List.forall_mem_cons]
  exact ⟨eq_encode_of_rowN rfl, eq_encode_of_rowN rfl, eq_encode_of_rowN rfl, eq_encode_of_rowN rfl,
    eq_encode_of_rowN rfl, eq_encode_of_rowB, eq_encode_of_rowN rfl, eq_encode_of_rowN rfl,
    eq_encode_of_rowN rfl, eq_encode_of_rowN rfl, eq_encode_of_rowN rfl, eq_encode_of_rowN rfl,
    eq_encode_of_rowN rfl, eq_encode_of_rowN rfl, eq_encode_of_rowN rfl, eq_encode_of_rowN rfl, nofun⟩

/-- Settles O1: each row of the table that a word meets gives that word back, its free bit included. -/
theorem decodeInvertsEncode : Obligations.DecodeInvertsEncode := by
  intro w i
  constructor
  · intro h
    obtain ⟨r, hr, hmatch, rfl⟩ := exists_row_of_decode h
    exact eq_encode_of_row r hr hmatch
  · rintro rfl
    exact decode_encode i

theorem encodedWord : ∀ i : Instr, Laws.EncodedWord.Statement i
  | .nop => Laws.EncodedWord.nop
  | .corrClear => Laws.EncodedWord.corrClear
  | .corrPush => Laws.EncodedWord.corrPush
  | .corrScore => Laws.EncodedWord.corrScore
  | .frmReset => Laws.EncodedWord.frmReset
  | .frmPushbit b => Laws.EncodedWord.frmPushbit b
  | .frmPushrange => Laws.EncodedWord.frmPushrange
  | .frmAck => Laws.EncodedWord.frmAck
  | .bvCopy => Laws.EncodedWord.bvCopy
  | .vitGentab => Laws.EncodedWord.vitGentab
  | .vitEncode => Laws.EncodedWord.vitEncode
  | .vitDecode => Laws.EncodedWord.vitDecode
  | .bchEncode => Laws.EncodedWord.bchEncode
  | .bchDecode => Laws.EncodedWord.bchDecode
  | .crcGen => Laws.EncodedWord.crcGen
  | .crcVerify => Laws.EncodedWord.crcVerify

theorem legalWord_encode (i : Instr) : legalWord (encode i) = true := (encodedWord i).1

/-- Each opcode is the word of a command with BIT 0. -/
theorem exists_encode_of_definedOpcode : ∀ n ∈ definedOpcodes, ∃ i, (encode i).toNat = n := by
  simp only [definedOpcodes, List.forall_mem_cons]
  exact ⟨⟨.nop, rfl⟩, ⟨.corrClear, rfl⟩, ⟨.corrPush, rfl⟩, ⟨.corrScore, rfl⟩, ⟨.frmReset, rfl⟩,
    ⟨.frmPushbit false, rfl⟩, ⟨.frmPushrange, rfl⟩, ⟨.frmAck, rfl⟩, ⟨.bvCopy, rfl⟩, ⟨.vitGentab, rfl⟩,
    ⟨.vitEncode, rfl⟩, ⟨.vitDecode, rfl⟩, ⟨.bchEncode, rfl⟩, ⟨.bchDecode, rfl⟩, ⟨.crcGen, rfl⟩,
    ⟨.crcVerify, rfl⟩, nofun⟩

/-- With its reserved bits 0 a word is its opcode, or FRM_PUSHBIT's opcode with BIT 1 above it. -/
theorem exists_encode_of_legalWord {w : Word} (h : legalWord w = true) : ∃ i, w = encode i := by
  obtain ⟨hopc, hreserved⟩ : w.toNat % 256 ∈ definedOpcodes ∧ reservedBitsZero w = true := by
    simpa only [legalWord, opcodeDefined, Bool.and_eq_true, List.contains_iff_mem] using h
  have hword : w.toNat = w.toNat % 256 ∨ w.toNat = 0x111 := by
    unfold reservedBitsZero at hreserved
    split at hreserved
    · have hformatB : w.toNat / 512 = 0 := beq_iff_eq.mp hreserved
      omega
    · have hformatN : w.toNat / 256 = 0 := beq_iff_eq.mp hreserved
      omega
  obtain hlow | hbit := hword
  · obtain ⟨i, hi⟩ := exists_encode_of_definedOpcode _ hopc
    exact ⟨i, BitVec.eq_of_toNat_eq (hlow.trans hi.symm)⟩
  · exact ⟨.frmPushbit true, BitVec.eq_of_toNat_eq hbit⟩

/-- Settles O2: the legal words are the encodings, and those are the words that decode. -/
theorem decodeAcceptsExactlyLegalWords : Obligations.DecodeAcceptsExactlyLegalWords := by
  intro w
  constructor
  · rintro ⟨i, h⟩
    rw [(decodeInvertsEncode w i).mp h]
    exact legalWord_encode i
  · intro h
    obtain ⟨i, hi⟩ := exists_encode_of_legalWord h
    exact ⟨i, (decodeInvertsEncode w i).mpr hi⟩

/-- Settles O3: the nine words are encodings. -/
theorem wordsOfTheTableDecode : Obligations.WordsOfTheTableDecode :=
  ⟨decode_encode .nop, decode_encode .corrClear, decode_encode .frmReset, decode_encode (.frmPushbit false),
    decode_encode (.frmPushbit true), decode_encode .bvCopy, decode_encode .vitDecode, decode_encode .bchDecode,
    decode_encode .crcVerify⟩

end Sys2Proof
end

/-! ## Cycles

SUPPORT. The three kinds of cycle and the host's transactions, one equation each (log 17, log 18). -/

section
namespace Sys2Proof.Machine

/-! ### The host's turn -/

section
variable {s : State} {rest : List HostOp}

theorem hostCycle_of_nil (h : s.host = []) : hostCycle s = .next s := by
  simp [hostCycle, h]

theorem hostCycle_of_write {off : BitVec 12} {v : Word} (h : s.host = .write off v :: rest) :
    hostCycle s = .next ((s.withHost rest).hostWrite off v) := by
  simp [hostCycle, h]

theorem hostCycle_of_read {off : BitVec 12} (h : s.host = .read off :: rest) :
    hostCycle s = .next ((s.withHost rest).hostRead off) := by
  simp [hostCycle, h]

theorem hostCycle_of_idle (h : s.host = .idle :: rest) : hostCycle s = .next (s.withHost rest) := by
  simp [hostCycle, h]

theorem hostCycle_of_wait (h : s.host = .wait :: rest) : hostCycle s = .next (s.poll rest) := by
  simp [hostCycle, h]

theorem State.poll_of_idle (hi : s.inFlight = none) :
    s.poll rest = (s.withRdata s.statusWord).withHost rest := by
  simp [State.poll, State.busy, hi]

theorem State.poll_of_busy (hb : s.inFlight ≠ none) : s.poll rest = s.withRdata s.statusWord := by
  simp [State.poll, State.busy, Option.isSome_iff_ne_none, hb]

end

/-! ### The sequencer's turn -/

section
variable {s : State} {w : Word}

theorem step_of_idle (hi : s.inFlight = none) : step s = hostCycle s := by
  simp [step, cycle, hi]

theorem step_of_remaining {left : Nat} (hf : s.inFlight = some ⟨w, left + 1⟩) :
    step s = hostCycle (s.withInFlight (some ⟨w, left⟩)) := by
  simp [step, cycle, hf]

theorem step_of_completing (hf : s.inFlight = some ⟨w, 0⟩) : step s = completingCycle w s := by
  simp [step, cycle, hf]

theorem step_of_statusWrite {v : Word} (hf : s.inFlight = some ⟨w, 0⟩) (hv : s.statusWriteNow = some v) :
    step s = runWord w ((s.withHost s.host.tail).writeStatus v) := by
  simp [step_of_completing hf, completingCycle, hv]

theorem step_of_noStatusWrite (hf : s.inFlight = some ⟨w, 0⟩) (hn : s.statusWriteNow = none) :
    step s = andThen (runWord w s) hostCycle := by
  simp [step_of_completing hf, completingCycle, hn]

/-- The completed state has no transaction to come either, so the host's turn leaves it as it is. -/
theorem step_of_quietHost (hf : s.inFlight = some ⟨w, 0⟩) (hh : s.host = []) : step s = runWord w s := by
  have hn : s.statusWriteNow = none := by simp [State.statusWriteNow, hh]
  obtain ⟨t, ht⟩ := runWord_next w s
  rw [step_of_noStatusWrite hf hn, ht, andThen_next]
  exact hostCycle_of_nil ((host_of_runWord ht).trans hh)

end

/-! ### Illegal words -/

theorem runWord_of_illegal {w : Word} (h : legalWord w = false) (s : State) :
    runWord w s = .next (turnedAway (w.extractLsb' 0 8) 1#4 s) := by
  unfold runWord
  split
  · next i hi =>
    have hlegal : legalWord w = true := (decodeAcceptsExactlyLegalWords w).mp ⟨i, hi⟩
    exact absurd (h.symm.trans hlegal) nofun
  · rfl

/-- Settles O4: the word is latched like any other, and the sequencer runs it to the error completion. -/
theorem illegalWordPerformsNothing : Obligations.IllegalWordPerformsNothing := by
  intro w s hw
  have hrun := runWord_of_illegal hw
  refine ⟨fun hi => ?_, fun hf => ⟨fun hh => ?_, fun hn => ?_, fun v hv => ?_⟩⟩
  · obtain ⟨⟨k, hk⟩, -⟩ := cmdWriteIssuesTheCommand s w hi
    exact ⟨k, congrArg State.inFlight hk⟩
  · rw [step_of_quietHost hf hh, hrun]
  · rw [step_of_noStatusWrite hf hn, hrun, andThen_next]
  · rw [step_of_statusWrite hf hv, hrun]

/-! ### Placed words -/

theorem State.withFetchWord_of_lt (s : State) {w : Nat} (hw : w < 2 ^ 32) :
    s.withFetchWord 32 w = s.latch (BitVec.ofNat 32 w) := by
  rw [State.withFetchWord, Nat.mod_eq_of_lt hw]

theorem decodeTableWord_eq_some {w : Nat} (hw : w < 2 ^ 32) (i : Instr) :
    decodeTableWord 32 w = some i ↔ decode (BitVec.ofNat 32 w) = .ok i := by
  rw [decodeTableWord, Nat.mod_eq_of_lt hw, if_pos hw]
  cases decode (BitVec.ofNat 32 w) <;> simp

/-- Settles O5: the equations of the three kinds of cycle and of the host's transactions. -/
theorem stepRunsDecodedCommand : Obligations.StepRunsDecodedCommand := by
  refine ⟨fun s w i hf hd => ⟨fun hh => ?_, fun hn => ?_, fun v hv => ?_⟩, fun s => step_of_idle,
    fun s w left => step_of_remaining, fun s rest => ⟨hostCycle_of_nil, fun off v => hostCycle_of_write,
      fun off => hostCycle_of_read, hostCycle_of_idle, fun hw hi => ?_, fun hw hb => ?_⟩,
    fun s w hw => ⟨s.withFetchWord_of_lt hw, decodeTableWord_eq_some hw⟩⟩
  · rw [step_of_quietHost hf hh, runWord_of_decode s hd]
  · rw [step_of_noStatusWrite hf hn, runWord_of_decode s hd]
  · rw [step_of_statusWrite hf hv, runWord_of_decode _ hd]
  · rw [hostCycle_of_wait hw, State.poll_of_idle hi]
    rfl
  · rw [hostCycle_of_wait hw, State.poll_of_busy hb]
    rfl

end Sys2Proof.Machine
end

/-! ## Bit-vector commands

SUPPORT. The range checks of a command in plain numbers, and what NOP and BV_COPY come to under them (40_bitvector.md
R130, R131). -/

section
namespace Sys2Proof.Machine

/-- The model's range check is the validity of 20_memory.md R86. -/
theorem validRange_iff_inBm {a n : Nat} : validRange a n = true ↔ inBm a n := by
  rw [validRange_iff, inBm, Config.bmBits]
  omega

theorem firstFailure_of_rangesInBm {a n f w : Nat} (h : inBm a n ∧ inBm f w) :
    firstFailure [(validRange a n, .range), (validRange f w, .range)] = none := by
  simpa [firstFailure_eq_none, validRange_iff_inBm] using h

/-- Either range check reports RANGE, so it does not matter which of them fails. -/
theorem firstFailure_of_rangeOutsideBm {a n f w : Nat} (h : ¬ (inBm a n ∧ inBm f w)) :
    firstFailure [(validRange a n, .range), (validRange f w, .range)] = some .range := by
  simp only [← validRange_iff_inBm] at h
  cases ha : validRange a n with
  | false => rfl
  | true =>
    have hf : validRange f w = false := by simpa [ha] using h
    rw [hf, firstFailure_cons_true, firstFailure_cons_false]

/-- Settles O17: NOP has no check to fail, and the state it completes is the one it was issued in. -/
theorem nopCompletes : Obligations.NopCompletes :=
  fun s => runCommand_of_checks (ch := s) (s := s) firstFailure_nil

/-- Settles O18: the bits stored are read from the memory before the store, so an overlap does not change them. -/
theorem copyWritesSourceAsItWas : Obligations.CopyWritesSourceAsItWas := by
  intro s
  have hlength : (bmRead s.bm s.arg0 s.arg1).length = s.arg1 := length_bmRead ..
  have hread := bmRead_bmWrite_self s.bm s.arg2 (bmRead s.bm s.arg0 s.arg1)
  have hframe := onlyBitsWritten_bmWrite s.bm s.arg2 (bmRead s.bm s.arg0 s.arg1)
  rw [hlength] at hread hframe
  exact ⟨fun hsource hdest => ⟨_, runCommand_of_checks (firstFailure_of_rangesInBm ⟨hsource, hdest⟩), hread, hframe⟩,
    fun hbad => runCommand_of_failure (firstFailure_of_rangeOutsideBm hbad)⟩

end Sys2Proof.Machine
end

/-! ## Correlator commands

SUPPORT. The length check in plain numbers, what a push changes, and what the three commands come to under them
(41_correlator.md R140 to R149). -/

section
namespace Sys2Proof.Machine

/-! ### The length check -/

/-- The model's check of N is R144's. -/
theorem Corr.lenOk_iff {c : Corr} : c.lenOk = true ↔ 1 ≤ c.len.toNat ∧ c.len.toNat ≤ 64 := by
  rw [Corr.lenOk, Bool.and_eq_true, decide_eq_true_eq, decide_eq_true_eq, Config.corrNMax]

theorem firstFailure_of_lenOk {c : Corr} (h : c.lenOk = true) : firstFailure [(c.lenOk, .config)] = none := by
  rw [h, firstFailure_cons_true, firstFailure_nil]

theorem firstFailure_of_illegalLength {c : Corr} (h : c.len.toNat = 0 ∨ 64 < c.len.toNat) :
    firstFailure [(c.lenOk, .config)] = some .config := by
  have hbad : c.lenOk = false := by
    rw [← Bool.not_eq_true, Corr.lenOk_iff]
    omega
  rw [hbad, firstFailure_cons_false]

/-- Settles O12: both commands have this one check, and it fails. -/
theorem correlatorNeedsLegalLength : Obligations.CorrelatorNeedsLegalLength :=
  fun _ h => ⟨runCommand_of_failure (firstFailure_of_illegalLength h),
    runCommand_of_failure (firstFailure_of_illegalLength h)⟩

/-! ### What a push changes -/

/-- R146: WP advances modulo N, which fits its six bits. -/
theorem Corr.toNat_wp_push {c : Corr} (hn : c.lenOk = true) (x : Word) :
    (c.push x).wp.toNat = (c.wp.toNat + 1) % c.len.toNat := by
  obtain ⟨hpos, hmax⟩ := Corr.lenOk_iff.mp hn
  have hlt : (c.wp.toNat + 1) % c.len.toNat < c.len.toNat := Nat.mod_lt _ hpos
  exact Nat.mod_eq_of_lt (show _ < 2 ^ 6 by omega)

theorem Corr.getElem_symbuf_push (c : Corr) (x : Word) {j : Nat} (h : j < 64) :
    (c.push x).symbuf[j] = if j = c.wp.toNat then x else c.symbuf[j] := by
  have hwp : c.wp.toNat < 64 := c.wp.isLt
  simp only [Corr.push, putSlot, dif_pos hwp, Vector.getElem_set, eq_comm]

/-- The window after a push, read through the old pointer: its position `i` is slot `WP + i + 1` of the new buffer. -/
theorem Corr.window_push {c : Corr} (hn : c.lenOk = true) (x : Word) (i : Nat) :
    (c.push x).window i = slot (putSlot c.symbuf c.wp.toNat x) ((c.wp.toNat + (i + 1)) % c.len.toNat) 0#32 := by
  have hslot : ((c.push x).wp.toNat + i) % c.len.toNat = (c.wp.toNat + (i + 1)) % c.len.toNat := by
    rw [Corr.toNat_wp_push hn, Nat.mod_add_mod, Nat.add_right_comm, Nat.add_assoc]
  exact congrArg (slot (putSlot c.symbuf c.wp.toNat x) · 0#32) hslot

/-- Settles O22: the newest position is the slot just written, and no other position reaches that slot. -/
theorem pushSlidesTheWindow : Obligations.PushSlidesTheWindow := by
  intro c x hpos hmax hwp
  have hn : c.lenOk = true := Corr.lenOk_iff.mpr ⟨hpos, hmax⟩
  constructor
  · have hnewest : (c.wp.toNat + (c.len.toNat - 1 + 1)) % c.len.toNat = c.wp.toNat := by
      rw [Nat.sub_add_cancel hpos, Nat.add_mod_right, Nat.mod_eq_of_lt hwp]
    rw [Corr.window_push hn, hnewest, slot_putSlot_self _ _ _ (by omega)]
  · intro i hi
    have hother : (c.wp.toNat + (i + 1)) % c.len.toNat ≠ c.wp.toNat := by
      rcases Nat.lt_or_ge (c.wp.toNat + (i + 1)) c.len.toNat with hlt | hge
      · rw [Nat.mod_eq_of_lt hlt]
        omega
      · rw [Nat.mod_eq_sub_mod hge, Nat.mod_eq_of_lt (by omega)]
        omega
    rw [Corr.window_push hn, slot_putSlot_ne _ _ _ hother, Corr.window]

/-! ### The commands -/

/-- RES1 of R146 and R147: the detection as a number. -/
theorem bitAt_zero (b : Bool) : bitAt b 0 = if b then 1#32 else 0#32 := by
  cases b <;> rfl

/-- R146's `if det: SYNC <- 1`, as one record update. -/
theorem State.raiseSync_if (s : State) (b : Bool) :
    (if b then s.raiseSync else s) = { s with status := { s.status with sync := s.status.sync || b } } := by
  cases b with
  | false => simp
  | true => simp [State.raiseSync, State.withStatus]

/-- Settles O20: the check passes, and the changes are the pushed and rescored correlator and SYNC. -/
theorem corrPushStoresAndScores : Obligations.CorrPushStoresAndScores := by
  intro s hpos hmax
  have hn : s.corr.lenOk = true := Corr.lenOk_iff.mpr ⟨hpos, hmax⟩
  refine ⟨(s.corr.push s.args.arg0).rescored, ?_, fun j h => Corr.getElem_symbuf_push _ _ h,
    Corr.toNat_wp_push hn s.args.arg0, rfl, rfl, rfl, rfl⟩
  rw [← bitAt_zero]
  exact (runCommand_of_checks (firstFailure_of_lenOk hn)).trans (by rw [State.raiseSync_if]; rfl)

/-- Settles O21: the check passes, and the one change is the score. -/
theorem corrScoreRescoresWithoutPushing : Obligations.CorrScoreRescoresWithoutPushing := by
  intro s hpos hmax
  rw [← bitAt_zero]
  exact runCommand_of_checks (firstFailure_of_lenOk (Corr.lenOk_iff.mpr ⟨hpos, hmax⟩))

/-- Settles O19: CORR_CLEAR has no check, and the correlator it completes with is the cleared one. -/
theorem corrClearClearsTheBuffer : Obligations.CorrClearClearsTheBuffer :=
  fun s => ⟨s.corr.clear, runCommand_of_checks (s := s) firstFailure_nil, fun _ _ => Vector.getElem_replicate _,
    rfl, rfl, rfl, rfl, rfl⟩

/-! ### Lanes -/

/-- The one lane of a single-lane datapath visits every window position in order, and pads none (R149). -/
theorem Corr.lane_one_zero (c : Corr) : c.lane 1 0 = c.dot := by
  unfold Corr.lane Corr.dot
  rw [Nat.add_sub_cancel, Nat.div_one]
  refine List.foldl_ext _ _ _ fun acc b hb => ?_
  rw [Nat.mul_one, Nat.add_zero, if_pos (List.mem_range.mp hb)]

/-- Settles O23: one lane leaves no other lane to be added. -/
theorem oneLaneScoreIsTheScore : Obligations.OneLaneScoreIsTheScore :=
  fun c => Corr.lane_one_zero c

end Sys2Proof.Machine
end

/-! ## Binary32

SUPPORT. What `fmul32`, `fadd32` and `fgt32` give, case by case (41_correlator.md R141, R143), in the words of the
statements: `magnitude`, `magnitudeUnits` and `valueUnits` are tied to the model's own terms first. -/

section
namespace Sys2Proof.Machine

/-! ### Words by sign and magnitude -/

/-- A word is its magnitude and its sign bit. -/
theorem toNat_eq_magnitude_add_sign (x : Word) : x.toNat = magnitude x + (x.getLsbD 31).toNat * 2 ^ 31 := by
  have hx : x.toNat < 2 ^ 32 := x.isLt
  rw [magnitude, BitVec.getLsbD, Nat.toNat_testBit]
  omega

theorem eq_of_sign_of_magnitude {a b : Word} (hs : a.getLsbD 31 = b.getLsbD 31) (hm : magnitude a = magnitude b) :
    a = b := by
  apply BitVec.eq_of_toNat_eq
  rw [toNat_eq_magnitude_add_sign, toNat_eq_magnitude_add_sign b, hs, hm]

theorem magnitude_f32Pack (sign : Bool) {m : Nat} (hm : m ≤ 0x7F800000) : magnitude (f32Pack sign m) = m := by
  rw [magnitude, f32Pack, BitVec.toNat_ofNat]
  omega

theorem sign_f32Pack (sign : Bool) {m : Nat} (hm : m ≤ 0x7F800000) : (f32Pack sign m).getLsbD 31 = sign := by
  have hsign : (m + sign.toNat * 2 ^ 31) / 2 ^ 31 = sign.toNat := by omega
  rw [f32Pack, BitVec.getLsbD_ofNat, Nat.testBit_eq_decide_div_mod_eq, hsign]
  cases sign <;> rfl

theorem f32IsNaN_iff {x : Word} : f32IsNaN x = true ↔ 0x7F800000 < magnitude x := decide_eq_true_iff

theorem f32IsInf_iff {x : Word} : f32IsInf x = true ↔ magnitude x = 0x7F800000 := beq_iff_eq

theorem f32IsZero_iff {x : Word} : f32IsZero x = true ↔ magnitude x = 0 := beq_iff_eq

theorem f32IsNaN_eq_false_iff {x : Word} : f32IsNaN x = false ↔ magnitude x ≤ 0x7F800000 :=
  decide_eq_false_iff_not.trans not_lt

theorem f32IsInf_of_lt {x : Word} (h : magnitude x < 0x7F800000) : f32IsInf x = false :=
  beq_eq_false_iff_ne.mpr h.ne

theorem f32Round_le (n : Nat) : f32Round n ≤ 0x7F800000 := Nat.min_le_right _ _

/-! ### The units of a magnitude -/

theorem magnitudeUnits_of_lt {k : Nat} (h : k < 2 ^ 23) : magnitudeUnits k = k := if_pos h

/-- The magnitude of a significand `v` at exponent step `t`, a carry out of the significand included. -/
theorem magnitudeUnits_add_mul {v t : Nat} (hv : v ≤ 2 ^ 24) (ht : t = 0 ∨ 2 ^ 23 ≤ v) :
    magnitudeUnits (v + t * 2 ^ 23) = v * 2 ^ t := by
  rcases Nat.lt_or_ge v (2 ^ 23) with hlow | hlow
  · obtain rfl : t = 0 := by omega
    rw [Nat.zero_mul, Nat.add_zero, magnitudeUnits_of_lt hlow, Nat.pow_zero, Nat.mul_one]
  · rw [magnitudeUnits, if_neg (by omega)]
    rcases Nat.lt_or_eq_of_le hv with hlt | rfl
    · have hexp : (v + t * 2 ^ 23) / 2 ^ 23 - 1 = t := by omega
      have hfrac : (v + t * 2 ^ 23) % 2 ^ 23 + 2 ^ 23 = v := by omega
      rw [hexp, hfrac]
    · have hexp : (2 ^ 24 + t * 2 ^ 23) / 2 ^ 23 - 1 = t + 1 := by omega
      have hfrac : (2 ^ 24 + t * 2 ^ 23) % 2 ^ 23 + 2 ^ 23 = 2 ^ 23 := by omega
      rw [hexp, hfrac, Nat.pow_succ]
      omega

/-- Every magnitude has such a significand and exponent step. -/
theorem exists_significand (k : Nat) : ∃ v t, k = v + t * 2 ^ 23 ∧ v < 2 ^ 24 ∧ (t = 0 ∨ 2 ^ 23 ≤ v) :=
  ⟨k - (k / 2 ^ 23 - 1) * 2 ^ 23, k / 2 ^ 23 - 1, by omega, by omega, by omega⟩

/-- The next magnitude has the next significand at the same exponent step. -/
theorem magnitudeUnits_strictMono : StrictMono magnitudeUnits := by
  refine strictMono_nat_of_lt_succ fun k => ?_
  obtain ⟨v, t, rfl, hv, ht⟩ := exists_significand k
  rw [Nat.add_right_comm, magnitudeUnits_add_mul hv.le ht, magnitudeUnits_add_mul (Nat.succ_le_of_lt hv) (by omega)]
  exact Nat.mul_lt_mul_of_pos_right v.lt_succ_self (Nat.two_pow_pos t)

theorem magnitudeUnits_eq_zero {k : Nat} : magnitudeUnits k = 0 ↔ k = 0 :=
  magnitudeUnits_strictMono.injective.eq_iff' (magnitudeUnits_of_lt (Nat.two_pow_pos 23))

/-- The model's units, read off the exponent and fraction fields, are those of the magnitude. -/
theorem f32Units_eq (x : Word) : f32Units x = magnitudeUnits (magnitude x) := by
  have hexp : f32Exp x = magnitude x / 2 ^ 23 := by rw [f32Exp, magnitude]; omega
  have hfrac : f32Frac x = magnitude x % 2 ^ 23 := by rw [f32Frac, magnitude]; omega
  rw [f32Units, magnitudeUnits, hexp, hfrac]
  by_cases h : magnitude x < 2 ^ 23
  · rw [if_pos h, if_pos (Nat.div_eq_of_lt h), Nat.mod_eq_of_lt h]
  · rw [if_neg h, if_neg (by omega)]

theorem f32Signed_eq (x : Word) : f32Signed x = valueUnits x := by
  rw [f32Signed, f32Units_eq]
  rfl

/-! ### Products -/

theorem fmul32_comm (a b : Word) : fmul32 a b = fmul32 b a := by
  rw [fmul32, fmul32, Bool.xor_comm, Bool.or_comm (f32IsNaN a), Bool.or_comm (f32IsInf a && _),
    Bool.and_comm (f32IsZero a), Bool.and_comm (f32IsInf a), Bool.or_comm (f32IsInf a), Nat.mul_comm]

section
variable {a b : Word}

theorem fmul32_of_nan (h : 0x7F800000 < magnitude a ∨ 0x7F800000 < magnitude b) : fmul32 a b = 0x7FC00000#32 := by
  rw [← f32IsNaN_iff, ← f32IsNaN_iff, ← Bool.or_eq_true] at h
  rw [fmul32, if_pos h, f32NaN]

theorem fmul32_of_inf_of_zero (ha : magnitude a = 0x7F800000) (hb : magnitude b = 0) : fmul32 a b = 0x7FC00000#32 := by
  simp [fmul32, f32IsInf_iff.mpr ha, f32IsZero_iff.mpr hb, f32NaN]

theorem fmul32_of_inf (ha : magnitude a = 0x7F800000) (hpos : 0 < magnitude b) (hb : magnitude b ≤ 0x7F800000) :
    fmul32 a b = f32Pack (a.getLsbD 31 ^^ b.getLsbD 31) 0x7F800000 := by
  have hazero : f32IsZero a = false := beq_eq_false_iff_ne.mpr (show magnitude a ≠ 0 by omega)
  have hbzero : f32IsZero b = false := beq_eq_false_iff_ne.mpr hpos.ne'
  rw [fmul32, f32IsNaN_eq_false_iff.mpr ha.le, f32IsNaN_eq_false_iff.mpr hb, f32IsInf_iff.mpr ha, hazero, hbzero]
  rfl

theorem fmul32_of_finite (ha : magnitude a < 0x7F800000) (hb : magnitude b < 0x7F800000) :
    fmul32 a b = f32Pack (a.getLsbD 31 ^^ b.getLsbD 31)
      (f32Round (magnitudeUnits (magnitude a) * magnitudeUnits (magnitude b))) := by
  rw [fmul32, f32IsNaN_eq_false_iff.mpr ha.le, f32IsNaN_eq_false_iff.mpr hb.le, f32IsInf_of_lt ha, f32IsInf_of_lt hb,
    Bool.and_false, f32Units_eq, f32Units_eq]
  rfl

/-- No product is a NaN but the canonical one: the other results are packed from a magnitude up to infinity's. -/
theorem fmul32_eq_nan_or_magnitude_le (a b : Word) :
    fmul32 a b = 0x7FC00000#32 ∨ magnitude (fmul32 a b) ≤ 0x7F800000 := by
  unfold fmul32
  split_ifs
  · exact .inl rfl
  · exact .inl rfl
  · exact .inr (magnitude_f32Pack _ le_rfl).le
  · exact .inr ((magnitude_f32Pack _ (f32Round_le _)).trans_le (f32Round_le _))

/-! ### Sums -/

theorem fadd32_of_nan (h : 0x7F800000 < magnitude a ∨ 0x7F800000 < magnitude b) : fadd32 a b = 0x7FC00000#32 := by
  rw [← f32IsNaN_iff, ← f32IsNaN_iff, ← Bool.or_eq_true] at h
  rw [fadd32, if_pos h, f32NaN]

theorem fadd32_of_opposite_infs (ha : magnitude a = 0x7F800000) (hb : magnitude b = 0x7F800000)
    (hs : a.getLsbD 31 ≠ b.getLsbD 31) : fadd32 a b = 0x7FC00000#32 := by
  rw [fadd32, f32IsNaN_eq_false_iff.mpr ha.le, f32IsNaN_eq_false_iff.mpr hb.le, f32IsInf_iff.mpr ha,
    f32IsInf_iff.mpr hb]
  exact if_neg hs

/-- An infinity plus what is neither a NaN nor the opposite infinity, on either side. -/
theorem fadd32_of_inf (ha : magnitude a = 0x7F800000) (hb : magnitude b ≤ 0x7F800000)
    (hs : magnitude b = 0x7F800000 → a.getLsbD 31 = b.getLsbD 31) : fadd32 a b = a ∧ fadd32 b a = a := by
  have hanan : f32IsNaN a = false := f32IsNaN_eq_false_iff.mpr ha.le
  have hbnan : f32IsNaN b = false := f32IsNaN_eq_false_iff.mpr hb
  have hainf : f32IsInf a = true := f32IsInf_iff.mpr ha
  rcases hb.lt_or_eq with hlt | hinf
  · simp [fadd32, hanan, hbnan, hainf, f32IsInf_of_lt hlt]
  · obtain rfl : a = b := eq_of_sign_of_magnitude (hs hinf) (ha.trans hinf.symm)
    simp [fadd32, hanan, hainf]

/-- The exact sum rounded, an exact zero included, since zero rounds to zero. -/
theorem fadd32_of_finite (ha : magnitude a < 0x7F800000) (hb : magnitude b < 0x7F800000) {sum : Int}
    (hsum : valueUnits a + valueUnits b = sum) :
    fadd32 a b = f32Pack (if sum = 0 then a.getLsbD 31 && b.getLsbD 31 else decide (sum < 0))
      (f32Round (sum.natAbs * 2 ^ 149)) := by
  rw [fadd32, f32IsNaN_eq_false_iff.mpr ha.le, f32IsNaN_eq_false_iff.mpr hb.le, f32IsInf_of_lt ha, f32IsInf_of_lt hb,
    f32Signed_eq, f32Signed_eq, hsum]
  by_cases hzero : sum = 0
  · subst hzero
    rfl
  · simp [hzero]

/-- No sum is a NaN but the canonical one: the other results are an infinity or packed from a magnitude up to it. -/
theorem fadd32_eq_nan_or_magnitude_le (a b : Word) :
    fadd32 a b = 0x7FC00000#32 ∨ magnitude (fadd32 a b) ≤ 0x7F800000 := by
  unfold fadd32
  dsimp only
  split_ifs with hnan hinfs hs hainf hbinf
  · exact .inl rfl
  · exact .inr (f32IsInf_iff.mp (Bool.and_eq_true_iff.mp hinfs).1).le
  · exact .inl rfl
  · exact .inr (f32IsInf_iff.mp hainf).le
  · exact .inr (f32IsInf_iff.mp hbinf).le
  · exact .inr ((magnitude_f32Pack _ (Nat.zero_le _)).trans_le (Nat.zero_le _))
  · exact .inr ((magnitude_f32Pack _ (f32Round_le _)).trans_le (f32Round_le _))

/-! ### The comparison -/

/-- Magnitudes order as their units do and both zeros have the value 0, so places order as values do. -/
theorem f32Order_lt_iff : f32Order b < f32Order a ↔ valueUnits b < valueUnits a := by
  have hab := magnitudeUnits_strictMono.lt_iff_lt (a := magnitude a) (b := magnitude b)
  have hba := magnitudeUnits_strictMono.lt_iff_lt (a := magnitude b) (b := magnitude a)
  have ha := magnitudeUnits_eq_zero (k := magnitude a)
  have hb := magnitudeUnits_eq_zero (k := magnitude b)
  simp only [f32Order, f32Sign, valueUnits, show f32Mag a = magnitude a from rfl, show f32Mag b = magnitude b from rfl]
  cases a.getLsbD 31 <;> cases b.getLsbD 31 <;> simp only [Bool.false_eq_true, if_true, if_false] <;> omega

theorem fgt32_iff : fgt32 a b = true ↔
    magnitude a ≤ 0x7F800000 ∧ magnitude b ≤ 0x7F800000 ∧ valueUnits b < valueUnits a := by
  rw [fgt32, Bool.and_eq_true, Bool.and_eq_true, decide_eq_true_iff, f32Order_lt_iff, Bool.not_eq_true',
    Bool.not_eq_true', f32IsNaN_eq_false_iff, f32IsNaN_eq_false_iff, and_assoc]

end

/-- The infinity of a product's sign, as the word it is. -/
theorem f32Pack_xor_inf (p q : Bool) :
    f32Pack (p ^^ q) 0x7F800000 = if p = q then 0x7F800000#32 else 0xFF800000#32 := by
  cases p <;> cases q <;> rfl

/-- Settles O24, one lemma per kind of operand. -/
theorem naNResultsAreCanonical : Obligations.NaNResultsAreCanonical := by
  intro a b
  refine ⟨fun h => ⟨fmul32_of_nan h, fadd32_of_nan h⟩, fun ha hb => ?_, fadd32_of_opposite_infs,
    (fmul32_eq_nan_or_magnitude_le a b).resolve_right ∘ not_le.mpr,
    (fadd32_eq_nan_or_magnitude_le a b).resolve_right ∘ not_le.mpr, fun ha hpos hb => ?_, fadd32_of_inf, fgt32_iff⟩
  · rw [fmul32_comm b a, fmul32_of_inf_of_zero ha hb]
    exact ⟨rfl, rfl⟩
  · rw [fmul32_comm b a, fmul32_of_inf ha hpos hb, f32Pack_xor_inf]
    exact ⟨rfl, rfl⟩

end Sys2Proof.Machine
end

/-! ## Rounding

SUPPORT. The rounding of 41_correlator.md R141 as a choice between the two neighbouring magnitudes that enclose the
exact value; what it chooses is nearest because magnitudes rise with their values. -/

section
namespace Sys2Proof.Machine

/-- The value of a magnitude in units of 2^-298, those of an exact product. -/
def productUnits (k : Nat) : Nat := magnitudeUnits k * 2 ^ 149

theorem productUnits_strictMono : StrictMono productUnits :=
  fun _ _ h => Nat.mul_lt_mul_of_pos_right (magnitudeUnits_strictMono h) (Nat.two_pow_pos 149)

theorem productUnits_add_mul {v t : Nat} (hv : v ≤ 2 ^ 24) (ht : t = 0 ∨ 2 ^ 23 ≤ v) :
    productUnits (v + t * 2 ^ 23) = v * 2 ^ (t + 149) := by
  rw [productUnits, magnitudeUnits_add_mul hv ht, Nat.mul_assoc, Nat.pow_add]

theorem natCast_productUnits (k : Nat) : (productUnits k : Int) = magnitudeUnits k * 2 ^ 149 := by
  rw [productUnits, Nat.cast_mul, Nat.cast_pow, Nat.cast_ofNat]

/-- `k` and `k + 1` are the magnitudes next to `n`; `r` is the nearer of them, and the even one on a tie. -/
structure RoundsTo (n k r : Nat) : Prop where
  lower_le : productUnits k ≤ n
  lt_upper : n < productUnits (k + 1)
  near : (r = k ∧ 2 * n ≤ productUnits k + productUnits (k + 1))
    ∨ (r = k + 1 ∧ productUnits k + productUnits (k + 1) ≤ 2 * n)
  tie : 2 * n = productUnits k + productUnits (k + 1) → r % 2 = 0

/-! ### The model's rounding is such a choice -/

/-- The quotient that is rounded has at most 24 bits, since all above them are dropped. -/
theorem div_f32Drop_lt (n : Nat) : n / 2 ^ f32Drop n < 2 ^ 24 := by
  rw [Nat.div_lt_iff_lt_mul (Nat.two_pow_pos _), ← Nat.pow_add]
  refine Nat.lt_log2_self.trans_le (Nat.pow_le_pow_right Nat.two_pos ?_)
  rw [f32Drop]
  omega

/-- Above the subnormal range it has all 24 bits. -/
theorem le_div_f32Drop {n : Nat} (h : 149 < f32Drop n) : 2 ^ 23 ≤ n / 2 ^ f32Drop n := by
  have hlog : 23 + f32Drop n = n.log2 := by
    rw [f32Drop] at h ⊢
    omega
  have hn : n ≠ 0 := by
    rintro rfl
    simp [f32Drop] at h
  rw [Nat.le_div_iff_mul_le (Nat.two_pow_pos _), ← Nat.pow_add, hlog]
  exact Nat.log2_self_le hn

/-- The quotient is rounded down or up by the remainder. -/
theorem divRoundEven_near (n k : Nat) :
    (divRoundEven n k = n / 2 ^ k ∧ 2 * (n % 2 ^ k) ≤ 2 ^ k)
    ∨ (divRoundEven n k = n / 2 ^ k + 1 ∧ 2 ^ k ≤ 2 * (n % 2 ^ k)) := by
  unfold divRoundEven
  dsimp only
  split_ifs <;> omega

/-- On a tie it is rounded to the even one. -/
theorem divRoundEven_tie {n k : Nat} (h : 2 * (n % 2 ^ k) = 2 ^ k) : divRoundEven n k % 2 = 0 := by
  rw [divRoundEven, if_neg h.not_lt, if_neg h.not_gt]
  omega

/-- The rounding before its cap at infinity: quotient and exponent step make the lower neighbour of `n`, and the next
quotient, which may carry out of the significand, the upper one. -/
theorem roundsTo_divRoundEven (n : Nat) :
    RoundsTo n (n / 2 ^ f32Drop n + (f32Drop n - 149) * 2 ^ 23)
      (divRoundEven n (f32Drop n) + (f32Drop n - 149) * 2 ^ 23) := by
  have hdrop : 149 ≤ f32Drop n := Nat.le_max_left ..
  have hlt := div_f32Drop_lt n
  have hstep : f32Drop n - 149 = 0 ∨ 2 ^ 23 ≤ n / 2 ^ f32Drop n :=
    (Nat.eq_or_lt_of_le hdrop).imp (fun h => by omega) le_div_f32Drop
  have hlower := productUnits_add_mul hlt.le hstep
  have hupper := productUnits_add_mul (Nat.succ_le_of_lt hlt) (hstep.imp_right Nat.le_succ_of_le)
  rw [Nat.sub_add_cancel hdrop] at hlower hupper
  rw [Nat.succ_mul, Nat.succ_eq_add_one, Nat.add_right_comm] at hupper
  have hdiv := Nat.div_add_mod' n (2 ^ f32Drop n)
  have hmod := Nat.mod_lt n (Nat.two_pow_pos (f32Drop n))
  have hnear := divRoundEven_near n (f32Drop n)
  exact
    { lower_le := by omega
      lt_upper := by omega
      near := by omega
      tie := fun h => by
        have := divRoundEven_tie (n := n) (k := f32Drop n) (by omega)
        omega }

/-- The model's rounding is that choice, capped at infinity. -/
theorem exists_roundsTo_f32Round (n : Nat) : ∃ k r, RoundsTo n k r ∧ f32Round n = min r 0x7F800000 :=
  ⟨_, _, roundsTo_divRoundEven n, rfl⟩

/-! ### What such a choice gives -/

section
variable {n k r : Nat}

/-- No magnitude is nearer, since it lies on or beyond a neighbour of `n`; one equally near is `r` or loses the tie. -/
theorem RoundsTo.nearest (h : RoundsTo n k r) (m : Nat) :
    |(n : Int) - productUnits r| ≤ |(n : Int) - productUnits m|
    ∧ (|(n : Int) - productUnits r| = |(n : Int) - productUnits m| → r = m ∨ r % 2 = 0) := by
  obtain ⟨hlo, hhi, hnear, htie⟩ := h
  have hbeyond : productUnits m ≤ productUnits k ∨ productUnits (k + 1) ≤ productUnits m :=
    (Nat.lt_or_ge k m).symm.imp (productUnits_strictMono.monotone ·) (productUnits_strictMono.monotone ·)
  have hsame : productUnits r = productUnits m → r = m := (productUnits_strictMono.injective ·)
  rw [Int.abs_eq_natAbs, Int.abs_eq_natAbs]
  rcases hnear with ⟨rfl, hnear⟩ | ⟨rfl, hnear⟩ <;> omega

/-- The largest finite magnitude, whose last bit is 1, and infinity's place lie one unit of 2^402 apart. -/
theorem productUnits_top :
    productUnits 0x7F7FFFFF = (2 ^ 24 - 1) * (2 * 2 ^ 401) ∧ productUnits 0x7F800000 = 2 ^ 24 * (2 * 2 ^ 401) := by
  have hfinite : 0x7F7FFFFF = 2 ^ 24 - 1 + 253 * 2 ^ 23 := by norm_num
  have hinf : 0x7F800000 = 2 ^ 24 + 253 * 2 ^ 23 := by norm_num
  have hexp : 253 + 149 = 401 + 1 := rfl
  rw [hfinite, hinf, productUnits_add_mul (by omega) (.inr (by omega)), productUnits_add_mul le_rfl (.inr (by omega)),
    hexp, pow_succ' 2 401]
  constructor <;> with_reducible rfl

/-- Infinity is reached from the middle between the largest finite magnitude and its own place on. -/
theorem RoundsTo.inf_le_iff (h : RoundsTo n k r) : 0x7F800000 ≤ r ↔ (2 ^ 25 - 1) * 2 ^ 401 ≤ n := by
  obtain ⟨hlo, hhi, hnear, htie⟩ := h
  obtain ⟨hfinite, hinf⟩ := productUnits_top
  have hmono : ∀ {i j}, i ≤ j → productUnits i ≤ productUnits j := (productUnits_strictMono.monotone ·)
  have hunit : 0 < 2 ^ 401 := by positivity
  generalize 2 ^ 401 = unit at *
  rcases Nat.lt_trichotomy k 0x7F7FFFFF with hk | rfl | hk
  · have hupper : productUnits (k + 1) ≤ productUnits 0x7F7FFFFF := hmono hk
    omega
  · have hupper : productUnits (0x7F7FFFFF + 1) = 2 ^ 24 * (2 * unit) := hinf
    omega
  · have hlower : productUnits 0x7F800000 ≤ productUnits k := hmono hk
    omega

end

/-- Settles O25: below the cap the rounding is the nearest magnitude, the cap is met from the middle on, and products
and sums are packed from their sign and the rounded exact result. -/
theorem roundingIsToNearestEven : Obligations.RoundingIsToNearestEven := by
  refine ⟨fun n m _ => ?_, fun a b ha hb => ?_⟩
  · obtain ⟨k, r, hr, hround⟩ := exists_roundsTo_f32Round n
    refine ⟨fun hfinite => ?_, f32Round_le n, ?_⟩
    · obtain rfl : f32Round n = r := by omega
      simp only [← natCast_productUnits]
      exact hr.nearest m
    · rw [← hr.inf_le_iff, hround, min_eq_right_iff]
  · dsimp only
    rw [fmul32_of_finite ha hb, fadd32_of_finite ha hb rfl]
    exact ⟨magnitude_f32Pack _ (f32Round_le _), sign_f32Pack _ (f32Round_le _), magnitude_f32Pack _ (f32Round_le _),
      sign_f32Pack _ (f32Round_le _)⟩

end Sys2Proof.Machine
end

/-! ## Captures of the framer

SUPPORT. The history after one more bit, CAP as a bit vector under the three operations on it, and what one bit comes to
in each case of 42_framer.md R163. -/

section
namespace Sys2Proof.Machine

/-! ### History and match -/

theorem Framer.toNat_bitCount_shiftIn (f : Framer) (b : Bool) :
    (f.shiftIn b).bitCount.toNat = (f.bitCount.toNat + 1) % 2 ^ 32 :=
  BitVec.toNat_add ..

theorem Framer.toNat_hfill_shiftIn (f : Framer) (b : Bool) :
    (f.shiftIn b).hfill.toNat = min (f.hfill.toNat + 1) 64 := by
  show (BitVec.ofNat 7 (min (f.hfill.toNat + 1) 64)).toNat = _
  rw [BitVec.toNat_ofNat, Nat.mod_eq_of_lt (by omega)]

/-- HIST[0] is the bit just received, and every earlier bit moves up by one place (42_framer.md R163). -/
theorem Framer.getLsbD_hist_shiftIn (f : Framer) (b : Bool) {j : Nat} (hj : j < 64) :
    (f.shiftIn b).hist.getLsbD j = if j = 0 then b else f.hist.getLsbD (j - 1) := by
  show (f.hist <<< 1 ||| (BitVec.ofBool b).setWidth 64).getLsbD j = _
  cases j with
  | zero => simp
  | succ j => simp [hj, -BitVec.getLsbD_eq_getElem]

theorem Framer.getLsbD_pat (f : Framer) (j : Nat) :
    f.pat.getLsbD j = if j < 32 then f.patLo.getLsbD j else f.patHi.getLsbD (j - 32) :=
  BitVec.getLsbD_append

/-- The popcount of R164 counts the places of the last L bits that differ from the pattern. -/
theorem Framer.distance_eq_length_filter (f : Framer) :
    f.distance = ((List.range f.patLen.toNat).filter fun j => f.hist.getLsbD j != f.pat.getLsbD j).length := by
  simp only [Framer.distance, hammingBelow, onesBelow, Nat.testBit_xor, BitVec.testBit_toNat,
    List.countP_eq_length_filter, Bool.bne_eq_xor]

theorem Framer.isMatch_iff {f : Framer} :
    f.isMatch = true ↔ f.patLen.toNat ≤ f.hfill.toNat ∧ f.distance ≤ f.maxErr.toNat := by
  rw [Framer.isMatch, Bool.and_eq_true, decide_eq_true_eq, decide_eq_true_eq]

/-- Settles O26: one lemma for each of the counters, the history, the distance and the match. -/
theorem matchComparesTheLastBits : Obligations.MatchComparesTheLastBits := by
  intro f b _ g
  refine ⟨rfl, f.toNat_bitCount_shiftIn b, fun _ => f.getLsbD_hist_shiftIn b, f.toNat_hfill_shiftIn b, ?_,
    Framer.isMatch_iff⟩
  simp only [g.distance_eq_length_filter, g.getLsbD_pat]
  rfl

/-! ### CAP -/

/-- The bits captured so far, `CAP[0 .. CC-1]`. -/
def Framer.captured (f : Framer) : Bits := (List.range f.cc.toNat).map fun i => f.cap.getLsbD i

@[simp] theorem Framer.length_captured (f : Framer) : f.captured.length = f.cc.toNat := by simp [Framer.captured]

/-- The bits of a frame that a match has already received: the window if sync bits are included (42_framer.md R165). -/
def Framer.syncBits (f : Framer) : Bits := if f.incSync then receivedWindow f else []

/-- TOT is the sync bits and FL further ones (R161). -/
theorem Framer.total_eq (f : Framer) : f.total = f.syncBits.length + f.flen.toNat := by
  rw [Framer.total, Framer.syncBits, receivedWindow]
  cases f.incSync <;> simp [Nat.add_comm]

/-- Bits `0 .. n-1` replaced one after another. -/
theorem getLsbD_foldl_putBit {w n : Nat} (v : BitVec w) (bit : Nat → Bool) (hn : n ≤ w) (j : Nat) :
    ((List.range n).foldl (fun v i => putBit v i (bit i)) v).getLsbD j = if j < n then bit j else v.getLsbD j := by
  induction n with
  | zero => rfl
  | succ n ih =>
    rw [List.range_succ, List.foldl_append, List.foldl_cons, List.foldl_nil, getLsbD_putBit _ _ _ _ hn,
      ih (by omega)]
    rcases Nat.lt_trichotomy j n with h | rfl | h
    · rw [if_neg (by omega), if_pos h, if_pos (by omega)]
    · rw [if_pos rfl, if_pos (by omega)]
    · rw [if_neg (by omega), if_neg (by omega), if_neg (by omega)]

theorem Framer.getLsbD_capWindow {f : Framer} (hlen : f.patLen.toNat ≤ 64) {j : Nat} (hj : j < f.patLen.toNat) :
    f.capWindow.getLsbD j = f.hist.getLsbD (f.patLen.toNat - 1 - j) := by
  rw [Framer.capWindow, getLsbD_foldl_putBit _ _ (by omega), if_pos hj]

theorem Framer.toNat_cc_startCapture (f : Framer) :
    f.startCapture.cc.toNat = if f.incSync then f.patLen.toNat else 0 := by
  unfold Framer.startCapture
  cases f.incSync
  · rfl
  · simp only [if_true]
    rw [BitVec.toNat_ofNat, Nat.mod_eq_of_lt (by omega)]

theorem Framer.captured_startCapture {f : Framer} (hlen : f.patLen.toNat ≤ 64) :
    f.startCapture.captured = f.syncBits := by
  rw [Framer.captured, Framer.toNat_cc_startCapture, Framer.startCapture, Framer.syncBits]
  cases f.incSync
  · rfl
  · exact List.map_congr_left fun i hi => Framer.getLsbD_capWindow hlen (List.mem_range.mp hi)

theorem Framer.toNat_cc_append {f : Framer} (hcc : f.cc.toNat < 4096) (b : Bool) :
    (f.append b).cc.toNat = f.cc.toNat + 1 := by
  rw [Framer.cc_append, BitVec.toNat_ofNat, Nat.mod_eq_of_lt (by omega)]

theorem Framer.getLsbD_cap_append {f : Framer} (hcc : f.cc.toNat < 4096) (b : Bool) (j : Nat) :
    (f.append b).cap.getLsbD j = if j = f.cc.toNat then b else f.cap.getLsbD j :=
  getLsbD_putBit _ _ _ _ hcc

theorem Framer.captured_append {f : Framer} (hcc : f.cc.toNat < 4096) (b : Bool) :
    (f.append b).captured = f.captured ++ [b] := by
  simp only [Framer.captured, Framer.toNat_cc_append hcc, Framer.getLsbD_cap_append hcc, List.range_succ,
    List.map_append, List.map_cons, List.map_nil, if_true]
  congr 1
  exact List.map_congr_left fun i hi => if_neg (List.mem_range.mp hi).ne

/-- The frame that is dispatched is what was captured. -/
theorem Framer.frameBits_eq_captured {f : Framer} (h : f.cc.toNat = f.total) : f.frameBits = f.captured := by
  rw [Framer.frameBits, Framer.captured, h]

/-! ### One bit -/

theorem pushBit_of_noMatch {s : State} {b : Bool} (hs : s.frm.fstate = .searching)
    (hm : (s.frm.shiftIn b).isMatch = false) :
    pushBit s b = ⟨s.withFrm (s.frm.shiftIn b), .none, (s.frm.shiftIn b).distance⟩ := by
  have hg : (s.frm.shiftIn b).fstate = .searching := hs
  simp [pushBit, hg, hm]

theorem pushBit_of_match {s : State} {b : Bool} (hs : s.frm.fstate = .searching)
    (hm : (s.frm.shiftIn b).isMatch = true) :
    pushBit s b
      = ⟨s.withFrm (s.frm.shiftIn b).startCapture, ⟨true, false, false⟩, (s.frm.shiftIn b).distance⟩ := by
  have hg : (s.frm.shiftIn b).fstate = .searching := hs
  simp [pushBit, hg, hm]

theorem pushBit_of_preemption {s : State} {b : Bool} (hs : s.frm.fstate = .capturing) (hp : s.frm.preempt = true)
    (hm : (s.frm.shiftIn b).isMatch = true) :
    pushBit s b
      = ⟨s.withFrm (s.frm.shiftIn b).startCapture, ⟨true, false, true⟩, (s.frm.shiftIn b).distance⟩ := by
  have hg : (s.frm.shiftIn b).fstate = .capturing := hs
  have hgp : (s.frm.shiftIn b).preempt = true := hp
  simp [pushBit, hg, hgp, hm]

/-- A bit that does not preempt is appended, and dispatches the frame it completes. -/
theorem pushBit_of_capturing {s : State} {b : Bool} (hs : s.frm.fstate = .capturing)
    (hno : s.frm.preempt = false ∨ (s.frm.shiftIn b).isMatch = false) (hcc : s.frm.cc.toNat < 4096) :
    pushBit s b =
      if s.frm.cc.toNat + 1 = s.frm.total then
        ⟨dispatchFrame (s.withFrm ((s.frm.shiftIn b).append b)), ⟨false, true, false⟩, (s.frm.shiftIn b).distance⟩
      else ⟨s.withFrm ((s.frm.shiftIn b).append b), .none, (s.frm.shiftIn b).distance⟩ := by
  have hg : (s.frm.shiftIn b).fstate = .capturing := hs
  have hnp : ((s.frm.shiftIn b).isMatch && (s.frm.shiftIn b).preempt) = false :=
    (Bool.and_eq_false_iff.mpr hno.symm)
  have hlen : ((s.frm.shiftIn b).append b).cc.toNat = s.frm.cc.toNat + 1 :=
    Framer.toNat_cc_append (f := s.frm.shiftIn b) hcc b
  simp only [pushBit, hg, hnp, hlen, Bool.false_eq_true, if_false]
  rfl

theorem pushBit_of_open {s : State} {b : Bool} (hs : s.frm.fstate = .capturing)
    (hno : s.frm.preempt = false ∨ (s.frm.shiftIn b).isMatch = false) (hcc : s.frm.cc.toNat < 4096)
    (hopen : s.frm.cc.toNat + 1 ≠ s.frm.total) :
    pushBit s b = ⟨s.withFrm ((s.frm.shiftIn b).append b), .none, (s.frm.shiftIn b).distance⟩ := by
  rw [pushBit_of_capturing hs hno hcc, if_neg hopen]

theorem pushBit_of_complete {s : State} {b : Bool} (hs : s.frm.fstate = .capturing)
    (hno : s.frm.preempt = false ∨ (s.frm.shiftIn b).isMatch = false) (hcc : s.frm.cc.toNat < 4096)
    (hlast : s.frm.cc.toNat + 1 = s.frm.total) :
    pushBit s b
      = ⟨dispatchFrame (s.withFrm ((s.frm.shiftIn b).append b)), ⟨false, true, false⟩,
          (s.frm.shiftIn b).distance⟩ := by
  rw [pushBit_of_capturing hs hno hcc, if_pos hlast]

/-! ### Dispatch -/

/-- A dispatch as one record update, its store left to the lemmas below. -/
theorem dispatchFrame_eq (s : State) :
    dispatchFrame s =
      { s with
        frm := s.frm.dispatched, bm := (dispatchFrame s).bm, status := { s.status with frameReady := true } } :=
  rfl

/-- A complete capture is found at FRM_DST after its dispatch (42_framer.md R168). -/
theorem bmRead_dispatchFrame {s : State} (h : s.frm.cc.toNat = s.frm.total) :
    bmRead (dispatchFrame s).bm s.frm.dst.toNat s.frm.total = s.frm.captured := by
  rw [← Framer.frameBits_eq_captured h, ← length_frameBits s.frm]
  exact bmRead_bmWrite_self ..

theorem onlyBitsWritten_dispatchFrame (s : State) :
    onlyBitsWritten s.bm (dispatchFrame s).bm s.frm.dst.toNat s.frm.total := by
  rw [← length_frameBits s.frm]
  exact onlyBitsWritten_bmWrite ..

/-- The frame in BM after the bit that completes it: the bits captured before, then this one. -/
theorem bmRead_dispatchFrame_append {s : State} (b : Bool) (hcc : s.frm.cc.toNat < 4096)
    (hlast : s.frm.cc.toNat + 1 = s.frm.total) :
    bmRead (dispatchFrame (s.withFrm ((s.frm.shiftIn b).append b))).bm s.frm.dst.toNat s.frm.total
      = s.frm.captured ++ [b] := by
  have hlen : ((s.frm.shiftIn b).append b).cc.toNat = s.frm.total :=
    (Framer.toNat_cc_append (f := s.frm.shiftIn b) hcc b).trans hlast
  have hbits : ((s.frm.shiftIn b).append b).captured = s.frm.captured ++ [b] :=
    Framer.captured_append (f := s.frm.shiftIn b) hcc b
  exact (bmRead_dispatchFrame (s := s.withFrm ((s.frm.shiftIn b).append b)) hlen).trans hbits

/-- FRAME_LEN holds every legal TOT (10_state.md R48). -/
theorem toNat_frameLen_dispatchFrame {s : State} (h : legalFramer s.frm) :
    (dispatchFrame s).frm.frameLen.toNat = s.frm.total := by
  obtain ⟨-, -, -, htot, -⟩ := h
  exact Nat.mod_eq_of_lt (show s.frm.total < 2 ^ 13 by omega)

end Sys2Proof.Machine
end

/-! ## Framer commands

SUPPORT. The checks of the two pushes in plain numbers, and what the framer's commands come to under them (42_framer.md
R162 to R175). -/

section
namespace Sys2Proof.Machine

/-- Settles O32: neither command has a check, and each completes with its one update. -/
theorem frmResetAndAckDoOnlyThat : Obligations.FrmResetAndAckDoOnlyThat :=
  fun s => ⟨runCommand_of_checks (s := s) firstFailure_nil, runCommand_of_checks (s := s) firstFailure_nil⟩

/-! ### The checks -/

/-- The checks that both pushes make first (42_framer.md R162, R170, R172), before those of `rest`. -/
def pushChecks (s : State) (rest : List (Bool × CmdError)) : List (Bool × CmdError) :=
  (s.frm.configOk, .config) :: (!s.status.frameReady, .pending) :: rest

theorem firstFailure_pushChecks_of_illegal {s : State} (h : ¬ legalFramer s.frm) (rest : List (Bool × CmdError)) :
    firstFailure (pushChecks s rest) = some .config := by
  have hbad : s.frm.configOk = false := by rwa [← Bool.not_eq_true, Framer.configOk_iff]
  rw [pushChecks, hbad, firstFailure_cons_false]

theorem firstFailure_pushChecks_of_pending {s : State} (h : legalFramer s.frm) (hr : s.status.frameReady = true)
    (rest : List (Bool × CmdError)) : firstFailure (pushChecks s rest) = some .pending := by
  rw [pushChecks, Framer.configOk_iff.mpr h, hr, firstFailure_cons_true, Bool.not_true, firstFailure_cons_false]

theorem firstFailure_pushChecks_of_ready {s : State} (h : legalFramer s.frm) (hr : s.status.frameReady = false)
    (rest : List (Bool × CmdError)) : firstFailure (pushChecks s rest) = firstFailure rest := by
  rw [pushChecks, Framer.configOk_iff.mpr h, hr, firstFailure_cons_true, Bool.not_false, firstFailure_cons_true]

/-- Settles O13: both pushes make the same two checks in this order, and the range check comes after them. -/
theorem framerPushErrorsInOrder : Obligations.FramerPushErrorsInOrder := by
  intro s b
  refine ⟨fun h => ⟨?_, ?_⟩, fun h hr => ⟨?_, ?_⟩, fun h hr hbad => ?_⟩
  · exact runCommand_of_failure (firstFailure_pushChecks_of_illegal h [])
  · exact runCommand_of_failure (firstFailure_pushChecks_of_illegal h _)
  · exact runCommand_of_failure (firstFailure_pushChecks_of_pending h hr [])
  · exact runCommand_of_failure (firstFailure_pushChecks_of_pending h hr _)
  · have hrange : validRange s.arg0 s.arg1 = false := by rwa [← Bool.not_eq_true, validRange_iff_inBm]
    have hfail : firstFailure (pushChecks s [(validRange s.arg0 s.arg1, .range)]) = some .range := by
      rw [firstFailure_pushChecks_of_ready h hr, hrange, firstFailure_cons_false]
    exact runCommand_of_failure hfail

/-! ### FRM_PUSHBIT -/

/-- FRM_PUSHBIT past its checks completes with what one bit gives (42_framer.md R170). -/
theorem exec_frmPushbit {s : State} {b : Bool} (h : legalFramer s.frm) (hr : s.status.frameReady = false)
    {p : BitResult} (hp : pushBit s b = p) :
    exec (.frmPushbit b) s
      = .next (completed 0x11#8 ⟨1#32, BitVec.ofNat 32 p.events.mask, BitVec.ofNat 32 p.dist, 0#32⟩ p.state) := by
  subst hp
  exact runCommand_of_checks (firstFailure_pushChecks_of_ready h hr [])

/-- Settles O27: the two cases of a bit while SEARCHING. -/
theorem pushBitWhileSearching : Obligations.PushBitWhileSearching := by
  intro s b h hr hs g
  obtain ⟨-, hlen, -⟩ := id h
  refine ⟨fun hm => exec_frmPushbit h hr (pushBit_of_noMatch hs hm), fun hm => ?_⟩
  exact ⟨g.startCapture, exec_frmPushbit h hr (pushBit_of_match hs hm), rfl, g.toNat_cc_startCapture,
    Framer.captured_startCapture (f := g) hlen⟩

/-- Settles O28: the two cases of a bit while CAPTURING that leave the frame incomplete. -/
theorem pushBitWhileCapturing : Obligations.PushBitWhileCapturing := by
  intro s b h hr hs hcc g
  obtain ⟨-, hlen, -, htot, -⟩ := id h
  have hcap : s.frm.cc.toNat < 4096 := by omega
  refine ⟨fun hp hm => ?_, fun hno hopen => ?_⟩
  · have hcapturing : g.startCapture = { g with
        tsPend := g.bitCount, cap := g.startCapture.cap, cc := g.startCapture.cc } := by
      rw [show g.fstate = .capturing from hs]
      rfl
    exact ⟨g.startCapture, exec_frmPushbit h hr (pushBit_of_preemption hs hp hm), hcapturing,
      g.toNat_cc_startCapture, Framer.captured_startCapture (f := g) hlen⟩
  · exact ⟨g.append b, exec_frmPushbit h hr (pushBit_of_open hs hno hcap hopen), rfl,
      Framer.toNat_cc_append (f := g) hcap b, fun j _ => Framer.getLsbD_cap_append (f := g) hcap b j⟩

/-- Settles O29: the completing bit is appended, and the dispatch stores what was captured. -/
theorem completingBitDispatchesTheFrame : Obligations.CompletingBitDispatchesTheFrame := by
  intro s b h hr hs hlast g hno
  obtain ⟨-, -, -, htot, -⟩ := id h
  have hcap : s.frm.cc.toNat < 4096 := by omega
  have hexec := exec_frmPushbit h hr (pushBit_of_complete hs hno hcap hlast)
  rw [dispatchFrame_eq] at hexec
  exact ⟨(g.append b).dispatched, (dispatchFrame (s.withFrm (g.append b))).bm, hexec, rfl,
    toNat_frameLen_dispatchFrame (s := s.withFrm (g.append b)) h, bmRead_dispatchFrame_append b hcap hlast,
    onlyBitsWritten_dispatchFrame (s.withFrm (g.append b))⟩

/-! ### Runs of bits -/

theorem pushAll_concat (s : State) (bs : Bits) (b : Bool) :
    pushAll s (bs ++ [b]) =
      ⟨(pushBit (pushAll s bs).state b).state,
        (pushAll s bs).events.union (pushBit (pushAll s bs).state b).events,
        (pushBit (pushAll s bs).state b).dist, (pushAll s bs).count + 1⟩ := by
  rw [pushAll, List.foldl_append]
  rfl

theorem state_pushAll_concat (s : State) (bs : Bits) (b : Bool) :
    (pushAll s (bs ++ [b])).state = (pushBit (pushAll s bs).state b).state := by
  rw [pushAll_concat]

theorem count_pushAll (s : State) (bs : Bits) : (pushAll s bs).count = bs.length := by
  induction bs using List.reverseRecOn with
  | nil => rfl
  | append_singleton bs b ih => rw [pushAll_concat, ih, List.length_append, List.length_singleton]

theorem bmRead_succ (m : Memory) (a n : Nat) : bmRead m a (n + 1) = bmRead m a n ++ [bmBit m (a + n)] := by
  simp only [bmRead, List.range_succ, List.map_append, List.map_cons, List.map_nil]

/-! ### FRM_PUSHRANGE -/

/-- The FRAME event and FRAME_READY come together, and a bit without them leaves BM alone (42_framer.md R163, R168). -/
theorem pushBit_frame_cases (s : State) (b : Bool) :
    ((pushBit s b).events.frame = true ∧ (pushBit s b).state.status.frameReady = true)
    ∨ (pushBit s b).events.frame = false ∧ (pushBit s b).state.status.frameReady = s.status.frameReady
      ∧ (pushBit s b).state.bm = s.bm := by
  unfold pushBit
  dsimp only
  split
  · split <;> exact .inr ⟨rfl, rfl, rfl⟩
  · split
    · exact .inr ⟨rfl, rfl, rfl⟩
    · split
      · exact .inl ⟨rfl, rfl⟩
      · exact .inr ⟨rfl, rfl, rfl⟩

/-- The loop of FRM_PUSHRANGE, `c` bits into the range that starts at `a`, with no frame dispatched yet: it stops after
the first `k` bits of the range as the range stood at the start. -/
theorem pushBits_eq_pushAll (s : State) (a left c : Nat) (hbm : (pushAll s (bmRead s.bm a c)).state.bm = s.bm)
    (hr : ∀ j, j ≤ c → (pushAll s (bmRead s.bm a j)).state.status.frameReady = false) :
    ∃ k, k ≤ c + left ∧ pushBits left (a + c) (pushAll s (bmRead s.bm a c)) = pushAll s (bmRead s.bm a k)
      ∧ (k = c + left ∨ (pushAll s (bmRead s.bm a k)).state.status.frameReady = true)
      ∧ ∀ j, j < k → (pushAll s (bmRead s.bm a j)).state.status.frameReady = false := by
  induction left generalizing c with
  | zero => exact ⟨c, le_rfl, rfl, .inl rfl, fun j hj => hr j hj.le⟩
  | succ left ih =>
    have hnext := pushAll_concat s (bmRead s.bm a c) (bmBit s.bm (a + c))
    rw [← bmRead_succ] at hnext
    rw [pushBits]
    simp only [hbm, ← hnext]
    obtain ⟨hev, hready⟩ | ⟨hev, hready, hkeep⟩ :=
      pushBit_frame_cases (pushAll s (bmRead s.bm a c)).state (bmBit s.bm (a + c))
    · rw [if_pos hev]
      exact ⟨c + 1, by omega, rfl, .inr (by rw [hnext]; exact hready), fun j hj => hr j (by omega)⟩
    · rw [hev, if_neg Bool.false_ne_true]
      have hr' : ∀ j, j ≤ c + 1 → (pushAll s (bmRead s.bm a j)).state.status.frameReady = false := by
        intro j hj
        rcases Nat.le_succ_iff.mp hj with hj | rfl
        · exact hr j hj
        · rw [hnext]
          exact hready.trans (hr c le_rfl)
      obtain ⟨k, hk, hrun, hend, hbefore⟩ := ih (c + 1) (by rw [hnext]; exact hkeep.trans hbm) hr'
      exact ⟨k, by omega, hrun, hend.imp_left (by omega), hbefore⟩

/-- Settles O30: the loop starts zero bits into the range, and its count is the number of bits pushed. -/
theorem pushRangeIsBitByBit : Obligations.PushRangeIsBitByBit := by
  intro s h hr hin
  obtain ⟨k, hk, hrun, hend, hbefore⟩ := pushBits_eq_pushAll s s.arg0 s.arg1 0 rfl fun j hj => by
    rw [Nat.le_zero.mp hj]
    exact hr
  have hrun : pushBits s.arg1 s.arg0 ⟨s, .none, 0, 0⟩ = pushAll s (bmRead s.bm s.arg0 k) := hrun
  have hcount : (pushAll s (bmRead s.bm s.arg0 k)).count = k := by rw [count_pushAll, length_bmRead]
  have hchecks : firstFailure (pushChecks s [(validRange s.arg0 s.arg1, .range)]) = none := by
    rw [firstFailure_pushChecks_of_ready h hr, validRange_iff_inBm.mpr hin, firstFailure_cons_true, firstFailure_nil]
  refine ⟨k, by omega, (runCommand_of_checks hchecks).trans ?_, hend.imp_left (by omega), hbefore⟩
  rw [hrun, hcount]
  rfl

/-! ### A frame without preemption -/

/-- `t` is in the capture that a match with the bit `b` started in `s`, and `bits` are captured so far. -/
structure InCapture (s : State) (b : Bool) (bits : Bits) (t : State) : Prop where
  bm : t.bm = s.bm
  config : t.frm.config = s.frm.config
  fstate : t.frm.fstate = .capturing
  tsPend : t.frm.tsPend = s.frm.bitCount + 1#32
  captured : t.frm.captured = bits

theorem inCapture_of_match {s : State} {b : Bool} (hlen : s.frm.patLen.toNat ≤ 64) (hs : s.frm.fstate = .searching)
    (hm : (s.frm.shiftIn b).isMatch = true) : InCapture s b (s.frm.shiftIn b).syncBits (pushBit s b).state := by
  rw [pushBit_of_match hs hm]
  exact ⟨rfl, rfl, rfl, rfl, Framer.captured_startCapture (f := s.frm.shiftIn b) hlen⟩

section
variable {s t : State} {b : Bool} {bits : Bits}

theorem InCapture.toNat_cc (h : InCapture s b bits t) : t.frm.cc.toNat = bits.length := by
  rw [← h.captured, Framer.length_captured]

theorem InCapture.total (h : InCapture s b bits t) : t.frm.total = s.frm.total := (congrArg Framer.total h.config :)

theorem InCapture.legalFramer (h : InCapture s b bits t) (hs : legalFramer s.frm) : legalFramer t.frm :=
  Framer.configOk_iff.mp ((Framer.configOk_congr h.config).trans (Framer.configOk_iff.mpr hs))

theorem InCapture.preempt (h : InCapture s b bits t) : t.frm.preempt = s.frm.preempt :=
  (congrArg Framer.preempt h.config :)

/-- Without preemption a bit that leaves the frame incomplete continues the capture (42_framer.md R163). -/
theorem InCapture.push (h : InCapture s b bits t) (hp : s.frm.preempt = false) (hmax : s.frm.total ≤ 4096)
    (hopen : bits.length + 1 < s.frm.total) (c : Bool) : InCapture s b (bits ++ [c]) (pushBit t c).state := by
  have hcc := h.toNat_cc
  have hcap : t.frm.cc.toNat < 4096 := by omega
  have hne : t.frm.cc.toNat + 1 ≠ t.frm.total := by
    rw [h.total]
    omega
  rw [pushBit_of_open h.fstate (.inl (h.preempt.trans hp)) hcap hne]
  refine ⟨h.bm, h.config, h.fstate, h.tsPend, ?_⟩
  rw [← h.captured]
  exact Framer.captured_append (f := t.frm.shiftIn c) hcap c

/-- Without preemption the bit that completes the frame dispatches it (R168). -/
theorem InCapture.pushBit_last (h : InCapture s b bits t) (hp : s.frm.preempt = false) (hmax : s.frm.total ≤ 4096)
    (hlast : bits.length + 1 = s.frm.total) (c : Bool) :
    (pushBit t c).state = dispatchFrame (t.withFrm ((t.frm.shiftIn c).append c))
    ∧ bmRead (pushBit t c).state.bm s.frm.dst.toNat s.frm.total = bits ++ [c]
    ∧ onlyBitsWritten s.bm (pushBit t c).state.bm s.frm.dst.toNat s.frm.total := by
  have hcc := h.toNat_cc
  have hcap : t.frm.cc.toNat < 4096 := by omega
  have heq : t.frm.cc.toNat + 1 = t.frm.total := by rw [h.total, hcc, hlast]
  have hdst : t.frm.dst = s.frm.dst := (congrArg Framer.dst h.config :)
  rw [pushBit_of_complete h.fstate (.inl (h.preempt.trans hp)) hcap heq, ← hdst, ← h.total, ← h.captured, ← h.bm]
  exact ⟨rfl, bmRead_dispatchFrame_append c hcap heq,
    onlyBitsWritten_dispatchFrame (t.withFrm ((t.frm.shiftIn c).append c))⟩

end

/-- As long as the frame is incomplete, the bits after the match are captured one after another. -/
theorem inCapture_pushAll {s : State} {b : Bool} (h : legalFramer s.frm) (hs : s.frm.fstate = .searching)
    (hp : s.frm.preempt = false) (hm : (s.frm.shiftIn b).isMatch = true) (bs : Bits)
    (hlen : bs.length < s.frm.flen.toNat) :
    InCapture s b ((s.frm.shiftIn b).syncBits ++ bs) (pushAll s (b :: bs)).state := by
  obtain ⟨-, hpat, -, hmax, -⟩ := h
  induction bs using List.reverseRecOn with
  | nil =>
    rw [List.append_nil]
    exact inCapture_of_match hpat hs hm
  | append_singleton bs c ih =>
    have htot : s.frm.total = (s.frm.shiftIn b).syncBits.length + s.frm.flen.toNat := (s.frm.shiftIn b).total_eq
    rw [List.length_append, List.length_singleton] at hlen
    rw [← List.append_assoc, ← List.cons_append, state_pushAll_concat]
    exact (ih (by omega)).push hp hmax (by rw [List.length_append]; omega) c

/-- Settles O31: all bits but the last extend the capture that the match started, and the last one dispatches it. -/
theorem bitsAfterSyncAreTheFrame : Obligations.BitsAfterSyncAreTheFrame := by
  intro s b bs h _ hs hp hm hlen
  obtain ⟨-, -, hpos, hmax, -⟩ := id h
  obtain rfl | ⟨bs, c, rfl⟩ := List.eq_nil_or_concat bs
  · rw [List.length_nil] at hlen
    omega
  · rw [List.concat_eq_append, List.length_append, List.length_singleton] at hlen
    have hcapture := inCapture_pushAll h hs hp hm bs (by omega)
    generalize ht : (pushAll s (b :: bs)).state = t at hcapture
    have htot : s.frm.total = (s.frm.shiftIn b).syncBits.length + s.frm.flen.toNat := (s.frm.shiftIn b).total_eq
    obtain ⟨hstate, hread, hframe⟩ :=
      hcapture.pushBit_last hp hmax (by rw [List.length_append]; omega) c
    rw [hstate] at hread hframe
    rw [List.concat_eq_append, ← List.cons_append, state_pushAll_concat, ht, hstate]
    refine ⟨rfl, rfl, rfl, ?_, hframe, ?_, (congrArg Framer.patId hcapture.config :), hcapture.tsPend⟩
    · rw [hread, List.append_assoc]
      rfl
    · exact (toNat_frameLen_dispatchFrame (s := t.withFrm ((t.frm.shiftIn c).append c)) (hcapture.legalFramer h)).trans
        hcapture.total

end Sys2Proof.Machine
end

/-! ## Viterbi checks

SUPPORT. The checks of the Viterbi commands in plain numbers (43_viterbi.md R191), and the edges of a trellis step in
their order (R199). -/

section
namespace Sys2Proof.Machine

/-! ### The edges -/

/-- The order of R199: by state, and within a state by input. -/
def edgeLt (e f : Nat × Nat) : Prop := e.1 < f.1 ∨ e.1 = f.1 ∧ e.2 < f.2

theorem Vit.mem_edges {v : Vit} {e : Nat × Nat} : e ∈ v.edges ↔ e.1 < v.states ∧ e.2 < v.inputs := by
  obtain ⟨st, u⟩ := e
  simp [Vit.edges]

theorem Vit.pairwise_edges (v : Vit) : v.edges.Pairwise edgeLt := by
  refine List.pairwise_flatMap.mpr ⟨fun st _ => ?_, ?_⟩
  · exact List.pairwise_map.mpr (List.pairwise_lt_range.imp fun hlt => .inr ⟨rfl, hlt⟩)
  · refine List.pairwise_lt_range.imp fun hlt e he f hf => ?_
    obtain ⟨u, -, rfl⟩ := List.mem_map.mp he
    obtain ⟨u', -, rfl⟩ := List.mem_map.mp hf
    exact .inl hlt

theorem Vit.nodup_edges (v : Vit) : v.edges.Nodup :=
  v.pairwise_edges.imp fun {e f} hlt heq => by
    rw [heq, edgeLt] at hlt
    omega

/-! ### The checks -/

theorem Vit.shapeOk_iff {v : Vit} : v.shapeOk = true ↔ legalShape v := by
  rw [Vit.shapeOk, Bool.and_eq_true, Bool.and_eq_true, decide_eq_true_eq, decide_eq_true_eq, Config.vitMMax]
  simp [legalShape, and_assoc]

theorem Vit.tableOk_iff {v : Vit} : v.tableOk = true ↔ legalTable v := by
  simp only [Vit.tableOk, List.all_eq_true, Bool.and_eq_true, decide_eq_true_eq, Vit.mem_edges]
  exact ⟨fun h st u hst hu => h (st, u) ⟨hst, hu⟩, fun h e he => h e.1 e.2 he.1 he.2⟩

/-- R191 (a) and (c): the shapes that (a) allows beside (1, 2) are ruled out by (c). -/
theorem Vit.generators_iff {v : Vit} : (v.shapeOk = true ∧ v.generatorsOk = true) ↔ legalGenerators v := by
  rw [Vit.shapeOk_iff]
  simp only [legalShape, Vit.generatorsOk, legalGenerators, Bool.and_eq_true, decide_eq_true_eq, Prod.mk.injEq]
  constructor
  · rintro ⟨⟨-, hm, hm'⟩, ⟨⟨hk, hn⟩, hg0⟩, hg1⟩
    exact ⟨hk, hn, hm, hm', hg0, hg1⟩
  · rintro ⟨hk, hn, hm, hm', hg0, hg1⟩
    exact ⟨⟨.inl ⟨hk, hn⟩, hm, hm'⟩, ⟨⟨hk, hn⟩, hg0⟩, hg1⟩

/-- The checks of VIT_GENTAB (R191). -/
def gentabChecks (v : Vit) : List (Bool × CmdError) := [(v.shapeOk, .config), (v.generatorsOk, .config)]

theorem firstFailure_gentabChecks_of_legal {v : Vit} (h : legalGenerators v) :
    firstFailure (gentabChecks v) = none := by
  obtain ⟨hs, hg⟩ := Vit.generators_iff.mpr h
  rw [gentabChecks, hs, hg, firstFailure_cons_true, firstFailure_cons_true, firstFailure_nil]

theorem firstFailure_gentabChecks_of_illegal {v : Vit} (h : ¬ legalGenerators v) :
    firstFailure (gentabChecks v) = some .config := by
  rw [← Vit.generators_iff] at h
  cases hs : v.shapeOk with
  | false => rw [gentabChecks, hs, firstFailure_cons_false]
  | true =>
    have hg : v.generatorsOk = false := by simpa [hs] using h
    rw [gentabChecks, hs, hg, firstFailure_cons_true, firstFailure_cons_false]

/-- The checks that VIT_ENCODE and VIT_DECODE make (R191, R197, R203): the trellis, `lengthOk`, and the two ranges. -/
def trellisChecks (v : Vit) (lengthOk : Bool) (a n d k : Nat) : List (Bool × CmdError) :=
  [(v.shapeOk, .config), (v.tableOk, .config), (lengthOk, .length), (validRange a n, .range), (validRange d k, .range)]

section
variable {v : Vit} {a n d k : Nat}

theorem firstFailure_trellisChecks_of_illegal (h : ¬ (legalShape v ∧ legalTable v)) (lengthOk : Bool) :
    firstFailure (trellisChecks v lengthOk a n d k) = some .config := by
  rw [← Vit.shapeOk_iff, ← Vit.tableOk_iff] at h
  cases hs : v.shapeOk with
  | false => rw [trellisChecks, hs, firstFailure_cons_false]
  | true =>
    have ht : v.tableOk = false := by simpa [hs] using h
    rw [trellisChecks, hs, ht, firstFailure_cons_true, firstFailure_cons_false]

theorem firstFailure_trellisChecks_of_legal (hs : legalShape v) (ht : legalTable v) (lengthOk : Bool) :
    firstFailure (trellisChecks v lengthOk a n d k)
      = firstFailure [(lengthOk, .length), (validRange a n, .range), (validRange d k, .range)] := by
  rw [trellisChecks, Vit.shapeOk_iff.mpr hs, Vit.tableOk_iff.mpr ht, firstFailure_cons_true, firstFailure_cons_true]

theorem firstFailure_trellisChecks_of_length (hs : legalShape v) (ht : legalTable v) {p : Prop} [Decidable p]
    (hl : ¬ p) : firstFailure (trellisChecks v (decide p) a n d k) = some .length := by
  rw [firstFailure_trellisChecks_of_legal hs ht, decide_eq_false hl, firstFailure_cons_false]

theorem firstFailure_trellisChecks_of_range (hs : legalShape v) (ht : legalTable v) {p : Prop} [Decidable p]
    (hl : p) (hr : ¬ (inBm a n ∧ inBm d k)) : firstFailure (trellisChecks v (decide p) a n d k) = some .range := by
  rw [firstFailure_trellisChecks_of_legal hs ht, decide_eq_true hl, firstFailure_cons_true,
    firstFailure_of_rangeOutsideBm hr]

theorem firstFailure_trellisChecks_of_ok (hs : legalShape v) (ht : legalTable v) {p : Prop} [Decidable p]
    (hl : p) (hr : inBm a n ∧ inBm d k) : firstFailure (trellisChecks v (decide p) a n d k) = none := by
  rw [firstFailure_trellisChecks_of_legal hs ht, decide_eq_true hl, firstFailure_cons_true,
    firstFailure_of_rangesInBm hr]

end

/-- Settles O14: each clause names the first of the command's checks to fail. -/
theorem viterbiErrorsInOrder : Obligations.ViterbiErrorsInOrder := by
  intro s
  refine ⟨fun h => ?_, fun h => ⟨?_, ?_⟩, fun hs ht => ⟨fun hl => ?_, fun hl hr => ?_, fun hl => ?_, fun hl hr => ?_⟩⟩
  · exact runCommand_of_failure (firstFailure_gentabChecks_of_illegal h)
  · exact runCommand_of_failure (firstFailure_trellisChecks_of_illegal h _)
  · exact runCommand_of_failure (firstFailure_trellisChecks_of_illegal h _)
  · exact runCommand_of_failure (firstFailure_trellisChecks_of_length hs ht hl)
  · exact runCommand_of_failure (firstFailure_trellisChecks_of_range hs ht hl hr)
  · exact runCommand_of_failure (firstFailure_trellisChecks_of_length hs ht (Nat.not_le.mpr hl))
  · exact runCommand_of_failure (firstFailure_trellisChecks_of_range hs ht hl hr)

end Sys2Proof.Machine
end

/-! ## The generator trellis

SUPPORT. What VIT_GENTAB writes, entry by entry, and the predecessors in its trellis (43_viterbi.md R194,
R195). -/

section
namespace Sys2Proof.Machine

/-! ### The table -/

/-- The Viterbi unit after VIT_GENTAB (R195). -/
def Vit.gentab (v : Vit) : Vit := { v with tab := v.generatedTable }

theorem exec_vitGentab {s : State} (h : legalGenerators s.vit) :
    exec .vitGentab s =
      .next (completed 0x30#8 ⟨BitVec.ofNat 32 (2 * 2 ^ s.vit.m.toNat), 0#32, 0#32, 0#32⟩
        { s with vit := s.vit.gentab }) :=
  runCommand_of_checks (firstFailure_gentabChecks_of_legal h)

theorem vit_of_exec_vitGentab {s t : State} (h : legalGenerators s.vit) (ht : exec .vitGentab s = .next t) :
    t.vit = s.vit.gentab := by
  cases ht.symm.trans (exec_vitGentab h)
  rfl

theorem getElem_putSlot {α : Type} {n : Nat} (v : Vector α n) (i : Nat) (x : α) {j : Nat} (h : j < n) :
    (putSlot v i x)[j] = if j = i then x else v[j] := by
  unfold putSlot
  split
  · rw [Vector.getElem_set]
    simp only [eq_comm]
  · rw [if_neg (by omega)]

/-- The entries after the states below `k` have been written. -/
theorem Vit.getElem_foldl_generated (v : Vit) (k : Nat) {e : Nat} (h : e < 512) :
    ((List.range k).foldl
      (fun tab s => (List.range 2).foldl (fun tab u => putSlot tab (8 * s + u) (v.generated s u)) tab) v.tab)[e]
      = if e / 8 < k ∧ e % 8 < 2 then v.generated (e / 8) (e % 8) else v.tab[e] := by
  induction k with
  | zero => simp
  | succ k ih =>
    rw [List.range_succ (n := k), List.foldl_append, List.foldl_cons, List.foldl_nil]
    change (putSlot (putSlot _ (8 * k + 0) (v.generated k 0)) (8 * k + 1) (v.generated k 1))[e] = _
    rw [getElem_putSlot, getElem_putSlot, ih]
    by_cases h1 : e = 8 * k + 1
    · have hd : e / 8 = k := by omega
      have hm : e % 8 = 1 := by omega
      rw [if_pos h1, if_pos (by omega), hd, hm]
    · rw [if_neg h1]
      by_cases h0 : e = 8 * k + 0
      · have hd : e / 8 = k := by omega
        have hm : e % 8 = 0 := by omega
        rw [if_pos h0, if_pos (by omega), hd, hm]
      · rw [if_neg h0]
        exact if_congr (by omega) rfl rfl

theorem Vit.getElem_gentab (v : Vit) {e : Nat} (h : e < 512) :
    v.gentab.tab[e] = if e / 8 < v.states ∧ e % 8 < 2 then v.generated (e / 8) (e % 8) else v.tab[e] :=
  v.getElem_foldl_generated v.states h

theorem Vit.states_le {v : Vit} (h : legalGenerators v) : v.states ≤ 64 := by
  obtain ⟨-, -, -, hm, -⟩ := h
  exact Nat.pow_le_pow_right (by omega) hm

theorem Vit.entry_gentab {v : Vit} (h : legalGenerators v) {st u : Nat} (hst : st < v.states) (hu : u < 2) :
    v.gentab.entry st u = v.generated st u := by
  have hs := Vit.states_le h
  have he : 8 * st + u < 512 := by omega
  have hd : (8 * st + u) / 8 = st := by omega
  have hm : (8 * st + u) % 8 = u := by omega
  rw [Vit.entry, slot, dif_pos he, Vit.getElem_gentab, hd, hm, if_pos ⟨hst, hu⟩]

/-! ### The edges of the generator code -/

/-- The number of taps of `g` on the register of edge `(st, u)`, modulo 2 (R194). -/
def Vit.taps (v : Vit) (st u : Nat) (g : BitVec 7) : Nat :=
  ((List.range (v.m.toNat + 1)).filter fun j => (u * 2 ^ v.m.toNat + st).testBit j && g.getLsbD j).length % 2

theorem Vit.taps_lt (v : Vit) (st u : Nat) (g : BitVec 7) : v.taps st u g < 2 := Nat.mod_lt _ (by decide)

theorem Vit.encoderReg_eq (v : Vit) {st : Nat} (hst : st < v.states) (u : Nat) :
    v.encoderReg st u = u * 2 ^ v.m.toNat + st := by
  rw [Vit.encoderReg, Nat.shiftLeft_eq, Nat.mul_comm, Nat.two_pow_add_eq_or_of_lt hst]

/-- Bits at and above the width of a value are 0, so they do not count. -/
theorem onesBelow_of_lt {x k n : Nat} (hx : x < 2 ^ k) (hk : k ≤ n) : onesBelow n x = onesBelow k x := by
  induction n, hk using Nat.le_induction with
  | base => rfl
  | succ n hk ih =>
    have hzero : x.testBit n = false := Nat.testBit_lt_two_pow (hx.trans_le (Nat.pow_le_pow_right (by omega) hk))
    rw [onesBelow, List.range_succ, List.countP_append, List.countP_singleton, hzero]
    exact ih

/-- The parity that R194 takes of `reg AND G` is that of the taps. -/
theorem Vit.parity7_eq_taps {v : Vit} (hm : v.m.toNat ≤ 6) {g : BitVec 7} (hg : g.toNat < 2 ^ (v.m.toNat + 1))
    {st : Nat} (hst : st < v.states) (u : Nat) : parity7 (v.encoderReg st u &&& g.toNat) = v.taps st u g := by
  rw [parity7, onesBelow_of_lt (Nat.and_lt_two_pow _ hg) (by omega), v.encoderReg_eq hst, onesBelow,
    List.countP_eq_length_filter, Vit.taps]
  simp only [Nat.testBit_and, BitVec.testBit_toNat]

/-- Half the number of states: the place value of the input in the next state (R194). -/
def Vit.half (v : Vit) : Nat := 2 ^ (v.m.toNat - 1)

theorem Vit.states_eq_two_mul_half {v : Vit} (h : legalGenerators v) : v.states = 2 * v.half := by
  obtain ⟨-, -, hm, -⟩ := h
  rw [Vit.half, ← Nat.pow_succ', Nat.succ_eq_add_one, Nat.sub_add_cancel hm, Vit.states]

/-- R194: `NEXT(s, u) = (u << (M-1)) | (s >> 1)`. -/
theorem Vit.next_gentab {v : Vit} (h : legalGenerators v) {st u : Nat} (hst : st < v.states) (hu : u < 2) :
    v.gentab.next st u = u * v.half + st / 2 := by
  have hmax := Vit.states_le h
  have hstates := Vit.states_eq_two_mul_half h
  have hshift : (u * v.states + st) / 2 = u * v.half + st / 2 := by
    rw [hstates, Nat.mul_left_comm, Nat.mul_add_div (by decide)]
  have hu' : u * v.half ≤ 1 * v.half := Nat.mul_le_mul_right _ (by omega)
  rw [Vit.next, Vit.entry_gentab h hst hu, Vit.generated, v.encoderReg_eq hst, Nat.shiftRight_one, ← Vit.states, hshift]
  exact Nat.mod_eq_of_lt (show _ < 64 by omega)

/-- R194: G0's parity is the first coded bit, G1's the second. -/
theorem Vit.out_gentab {v : Vit} (h : legalGenerators v) {st u : Nat} (hst : st < v.states) (hu : u < 2) :
    v.gentab.out st u = 2 * v.taps st u v.g0 + v.taps st u v.g1 := by
  have hentry := Vit.entry_gentab h hst hu
  obtain ⟨-, -, -, hm, hg0, hg1⟩ := h
  have ht0 := v.taps_lt st u v.g0
  have ht1 := v.taps_lt st u v.g1
  rw [Vit.out, hentry, Vit.generated, Vit.parity7_eq_taps hm hg0 hst, Vit.parity7_eq_taps hm hg1 hst]
  exact Nat.mod_eq_of_lt (show _ < 16 by omega)

/-- Settles O33: the entries of the generator code stand where R195 puts them, the others are kept. -/
theorem gentabWritesTheGeneratorTrellis : Obligations.GentabWritesTheGeneratorTrellis := by
  intro s h
  refine ⟨s.vit.gentab, exec_vitGentab h, rfl, fun st u hst hu => ⟨Vit.next_gentab h hst hu, Vit.out_gentab h hst hu⟩,
    fun e he hout => ?_⟩
  have hkept : ¬ (e / 8 < s.vit.states ∧ e % 8 < 2) := by
    rw [Vit.states]
    omega
  rw [Vit.getElem_gentab, if_neg hkept]

/-! ### Two predecessors -/

/-- The input of an edge is the top bit of the state it leads to, and the state it comes from is the rest with one more
bit, which is shifted out. -/
theorem Vit.next_gentab_eq_iff {v : Vit} (h : legalGenerators v) {st u s2 : Nat} (hst : st < v.states) (hu : u < 2) :
    v.gentab.next st u = s2 ↔ u = s2 / v.half ∧ st / 2 = s2 % v.half := by
  have hstates := Vit.states_eq_two_mul_half h
  have hshift : st / 2 < v.half := by omega
  have hunique := Nat.div_mod_unique (a := s2) (c := st / 2) (d := u) (Nat.two_pow_pos (v.m.toNat - 1))
  rw [Vit.next_gentab h hst hu, eq_comm (a := u), eq_comm (a := st / 2), Vit.half, hunique, ← Vit.half,
    and_iff_left hshift, Nat.add_comm, Nat.mul_comm]

/-- Settles O34: the edges into `s2` come from the two states that `s2` is the shift of, with one input. -/
theorem generatorTrellisHasTwoPredecessors : Obligations.GeneratorTrellisHasTwoPredecessors := by
  intro s t h ht s2 hs2
  have hs2 : s2 < s.vit.states := hs2
  have hstates := Vit.states_eq_two_mul_half h
  have hinputs : s.vit.gentab.inputs = 2 := congrArg (2 ^ ·) h.1
  have hlow : s2 % s.vit.half < s.vit.half := Nat.mod_lt _ (Nat.two_pow_pos _)
  have hinput : s2 / s.vit.half < 2 := Nat.div_lt_of_lt_mul (by omega)
  have hpred : (s.vit.gentab.edges.filter fun e => s.vit.gentab.next e.1 e.2 == s2).Perm
      [(2 * (s2 % s.vit.half), s2 / s.vit.half), (2 * (s2 % s.vit.half) + 1, s2 / s.vit.half)] := by
    refine (List.perm_ext_iff_of_nodup (s.vit.gentab.nodup_edges.filter _) (by simp)).mpr fun ⟨st, u⟩ => ?_
    simp only [List.mem_filter, Vit.mem_edges, hinputs, beq_iff_eq, List.mem_cons, Prod.mk.injEq, List.not_mem_nil,
      or_false]
    constructor
    · rintro ⟨⟨hst, hu⟩, hnext⟩
      obtain ⟨hinput, hstate⟩ := (Vit.next_gentab_eq_iff h hst hu).mp hnext
      omega
    · intro hedge
      have hst : st < s.vit.states := by omega
      have hu : u < 2 := by omega
      exact ⟨⟨hst, hu⟩, (Vit.next_gentab_eq_iff h hst hu).mpr (by omega)⟩
  rw [vit_of_exec_vitGentab h ht]
  exact hpred.length_eq

end Sys2Proof.Machine
end

/-! ## The encoder

SUPPORT. Vectors cut into groups of bits, what an encoding is step by step, VIT_ENCODE, and codes whose coded groups
tell the inputs apart (43_viterbi.md R192, R193, R196, R197, R204). -/

section
namespace Sys2Proof.Machine

/-! ### Groups of bits -/

theorem group_le {j t : Nat} (h : j < t) (n : Nat) : j * n + n ≤ t * n := by
  rw [← Nat.succ_mul]
  exact Nat.mul_le_mul_right n h

theorem take_drop_bmRead (m : Memory) (a : Nat) {n i k : Nat} (h : i + k ≤ n) :
    ((bmRead m a n).drop i).take k = bmRead m (a + i) k := by
  apply List.ext_getElem
  · simp only [List.length_take, List.length_drop, length_bmRead]
    omega
  · intro j _ _
    simp only [bmRead, List.getElem_take, List.getElem_drop, List.getElem_map, List.getElem_range, Nat.add_assoc]

/-- Group `j` is the number of the `k` bits that start at `j * k` (R192). -/
theorem groups_eq_map (k t : Nat) (b : Bits) :
    groups k t b = (List.range t).map fun j => num ((b.drop (j * k)).take k) := by
  induction t generalizing b with
  | zero => rfl
  | succ t ih =>
    simp only [groups, ih, List.drop_drop, List.range_succ_eq_map, List.map_cons, List.map_map, Function.comp_def,
      Nat.succ_mul, Nat.zero_mul, List.drop_zero, Nat.add_comm k]

theorem getElem_groups (k t : Nat) (b : Bits) {j : Nat} (h : j < (groups k t b).length) :
    (groups k t b)[j] = num ((b.drop (j * k)).take k) := by
  simp only [groups_eq_map, List.getElem_map, List.getElem_range]

/-- Group `j` of a range of BM is the number of the `k` bits `j` groups further on. -/
theorem getElem_groups_bmRead (m : Memory) (a : Nat) {k t n j : Nat} (hn : n = t * k)
    (h : j < (groups k t (bmRead m a n)).length) :
    (groups k t (bmRead m a n))[j] = num (bmRead m (a + j * k) k) := by
  rw [length_groups] at h
  rw [getElem_groups, take_drop_bmRead _ _ (hn ▸ group_le h k)]

theorem lt_of_mem_groups {k t u : Nat} {b : Bits} (h : u ∈ groups k t b) : u < 2 ^ k := by
  rw [groups_eq_map] at h
  obtain ⟨j, -, rfl⟩ := List.mem_map.mp h
  exact (num_lt _).trans_le (Nat.pow_le_pow_right (by omega) (List.length_take_le _ _))

/-- The first groups of a vector are the groups of its first bits. -/
theorem groups_take (k : Nat) {j t : Nat} (b : Bits) (h : j ≤ t) :
    groups k j (b.take (j * k)) = (groups k t b).take j := by
  rw [groups_eq_map, groups_eq_map, ← List.map_take, List.take_range, min_eq_left h]
  refine List.map_congr_left fun i hi => ?_
  have hik : k ≤ j * k - i * k := by
    rw [← Nat.sub_mul]
    exact Nat.le_mul_of_pos_left k (by have := List.mem_range.mp hi; omega)
  rw [List.drop_take, List.take_take, min_eq_left hik]

theorem flatMap_bitsOf_groups {k t : Nat} {b : Bits} (h : t * k ≤ b.length) :
    (groups k t b).flatMap (bitsOf k) = b.take (t * k) := by
  induction t generalizing b with
  | zero => simp [groups]
  | succ t ih =>
    rw [Nat.succ_mul] at h
    have hlen : (b.take k).length = k := List.length_take_of_le (by omega)
    have hfirst : bitsOf k (num (b.take k)) = b.take k := by simpa [hlen] using bitsOf_num (b.take k)
    rw [groups, List.flatMap_cons, hfirst, ih (by rw [List.length_drop]; omega), Nat.succ_mul, Nat.add_comm,
      List.take_add]

theorem groups_flatMap_bitsOf {k : Nat} {us : List Nat} (h : ∀ u ∈ us, u < 2 ^ k) :
    groups k us.length (us.flatMap (bitsOf k)) = us := by
  induction us with
  | nil => rfl
  | cons u us ih =>
    obtain ⟨hu, hus⟩ := List.forall_mem_cons.mp h
    rw [List.length_cons, groups, List.flatMap_cons, List.take_left' (length_bitsOf k u),
      List.drop_left' (length_bitsOf k u), ih hus, num_bitsOf, Nat.mod_eq_of_lt hu]

theorem bitsOf_inj {n a b : Nat} (ha : a < 2 ^ n) (hb : b < 2 ^ n) (h : bitsOf n a = bitsOf n b) : a = b := by
  have hnum := congrArg num h
  rwa [num_bitsOf, num_bitsOf, Nat.mod_eq_of_lt ha, Nat.mod_eq_of_lt hb] at hnum

/-! ### Walks -/

/-- The state that the inputs `us` lead to from state 0 (R193, R196). -/
def Vit.stateAfter (v : Vit) (us : List Nat) : Nat := (v.encodeFrom 0 us).state

/-- The edge taken at step `j` of the walk of `us` from state 0. -/
def Vit.stepEdge (v : Vit) (us : List Nat) (j : Nat) : Nat × Nat := (v.stateAfter (us.take j), us.getD j 0)

theorem Vit.encodeFrom_concat (v : Vit) (s : Nat) (us : List Nat) (u : Nat) :
    v.encodeFrom s (us ++ [u])
      = ⟨(v.encodeFrom s us).code ++ bitsOf v.nBits (v.out (v.encodeFrom s us).state u),
        v.next (v.encodeFrom s us).state u⟩ := by
  induction us generalizing s with
  | nil => simp [Vit.encodeFrom]
  | cons w us ih => simp only [List.cons_append, Vit.encodeFrom, ih, List.append_assoc]

@[simp] theorem Vit.stateAfter_nil (v : Vit) : v.stateAfter [] = 0 := rfl

@[simp] theorem Vit.stateAfter_concat (v : Vit) (us : List Nat) (u : Nat) :
    v.stateAfter (us ++ [u]) = v.next (v.stateAfter us) u := by
  rw [Vit.stateAfter, Vit.encodeFrom_concat, Vit.stateAfter]

theorem Vit.code_concat (v : Vit) (us : List Nat) (u : Nat) :
    (v.encodeFrom 0 (us ++ [u])).code = (v.encodeFrom 0 us).code ++ bitsOf v.nBits (v.out (v.stateAfter us) u) := by
  rw [Vit.encodeFrom_concat, Vit.stateAfter]

theorem Vit.stepEdge_concat_of_lt (v : Vit) {us : List Nat} (u : Nat) {j : Nat} (h : j < us.length) :
    v.stepEdge (us ++ [u]) j = v.stepEdge us j := by
  rw [Vit.stepEdge, Vit.stepEdge, List.take_append_of_le_length h.le, List.getD_append _ _ _ _ h]

theorem Vit.stepEdge_concat_length (v : Vit) (us : List Nat) (u : Nat) :
    v.stepEdge (us ++ [u]) us.length = (v.stateAfter us, u) := by
  simp [Vit.stepEdge]

/-- The walk goes on along the edge of each step (R196). -/
theorem Vit.stateAfter_take_succ (v : Vit) {us : List Nat} {j : Nat} (h : j < us.length) :
    v.stateAfter (us.take (j + 1)) = v.next (v.stateAfter (us.take j)) us[j] := by
  rw [List.take_succ_eq_append_getElem h, Vit.stateAfter_concat]

/-- Coded group `j` is OUT of the edge of step `j`, MSB first (R192, R196). -/
theorem Vit.code_group (v : Vit) (us : List Nat) {j : Nat} (h : j < us.length) :
    ((v.encodeFrom 0 us).code.drop (j * v.nBits)).take v.nBits
      = bitsOf v.nBits (v.out (v.stepEdge us j).1 (v.stepEdge us j).2) := by
  induction us using List.reverseRecOn with
  | nil => exact absurd h (Nat.not_lt_zero j)
  | append_singleton us u ih =>
    have hlen := length_encodeFrom v 0 us
    rw [Vit.code_concat]
    rcases Nat.lt_succ_iff_lt_or_eq.mp (by simpa using h) with hlt | rfl
    · have hgroup := group_le hlt v.nBits
      rw [List.drop_append_of_le_length (by omega), List.take_append_of_le_length (by rw [List.length_drop]; omega),
        ih hlt, Vit.stepEdge_concat_of_lt v u hlt]
    · rw [← hlen, List.drop_left, List.take_of_length_le (by simp), Vit.stepEdge_concat_length]

/-- Where BM holds the code of `us`, each group holds its step's coded bits. -/
theorem Vit.bmRead_group (v : Vit) {us : List Nat} {m : Memory} {a : Nat}
    (h : bmRead m a (us.length * v.nBits) = (v.encodeFrom 0 us).code) {j : Nat} (hj : j < us.length) :
    bmRead m (a + j * v.nBits) v.nBits = bitsOf v.nBits (v.out (v.stateAfter (us.take j)) us[j]) := by
  rw [← take_drop_bmRead _ _ (group_le hj v.nBits), h, Vit.code_group v us hj, Vit.stepEdge,
    List.getD_eq_getElem _ _ hj]

/-! ### Information vectors -/

theorem Vit.enc_of_length {v : Vit} (hk : 0 < v.kBits) {info : Bits} {t : Nat} (h : info.length = t * v.kBits) :
    v.enc info = v.encodeFrom 0 (groups v.kBits t info) := by
  rw [Vit.enc, h, Nat.mul_div_cancel _ hk]

/-- The edge of the statements is the step of the walk of the vector's groups. -/
theorem Vit.edgeAt_eq_stepEdge {v : Vit} (hk : 0 < v.kBits) {info : Bits} {t j : Nat}
    (h : info.length = t * v.kBits) (hj : j < t) :
    v.edgeAt info j = v.stepEdge (groups v.kBits t info) j := by
  have hhead : (info.take (j * v.kBits)).length = j * v.kBits :=
    List.length_take_of_le (h ▸ Nat.mul_le_mul_right _ hj.le)
  rw [Vit.edgeAt, Vit.enc_of_length hk hhead, groups_take _ _ hj.le, Vit.stepEdge, Vit.stateAfter,
    List.getD_eq_getElem _ _ (by simpa using hj), getElem_groups]

theorem legalShape.kBits_pos {v : Vit} (h : legalShape v) : 0 < v.kBits := by
  obtain ⟨hkn, -⟩ := h
  omega

theorem exec_vitEncode {s : State} (hs : legalShape s.vit) (ht : legalTable s.vit) (hl : s.arg1 % s.vit.kBits = 0)
    (hsource : inBm s.arg0 s.arg1) (hdest : inBm s.arg2 (s.arg1 / s.vit.kBits * s.vit.nBits)) {c : Encoded}
    (hc : s.vit.enc (bmRead s.bm s.arg0 s.arg1) = c) :
    exec .vitEncode s =
      .next (completed 0x31#8
        ⟨BitVec.ofNat 32 (s.arg1 / s.vit.kBits * s.vit.nBits), BitVec.ofNat 32 c.state,
          BitVec.ofNat 32 (s.arg1 / s.vit.kBits), 0#32⟩
        { s with bm := bmWrite s.bm s.arg2 c.code }) := by
  subst hc
  exact runCommand_of_checks (firstFailure_trellisChecks_of_ok hs ht hl ⟨hsource, hdest⟩)

/-- Settles O35: the states are those of the walk of the groups, and each group written is a group of its code. -/
theorem encodeWalksTheTrellis : Obligations.EncodeWalksTheTrellis := by
  intro s hs ht hl hsource hdest
  have hk := hs.kBits_pos
  set v := s.vit
  set t := s.arg1 / v.kBits
  have hlen : s.arg1 = t * v.kBits := (Nat.div_mul_cancel (Nat.dvd_of_mod_eq_zero hl)).symm
  set us := groups v.kBits t (bmRead s.bm s.arg0 s.arg1)
  have hgroups : us.length = t := length_groups ..
  have henc : v.enc (bmRead s.bm s.arg0 s.arg1) = v.encodeFrom 0 us := Vit.enc_of_length hk (by simpa using hlen)
  have hcode := length_encodeFrom v 0 us
  have hread := bmRead_bmWrite_self s.bm s.arg2 (v.encodeFrom 0 us).code
  have hframe := onlyBitsWritten_bmWrite s.bm s.arg2 (v.encodeFrom 0 us).code
  rw [hcode] at hread hframe
  refine ⟨fun j => v.stateAfter (us.take j), bmWrite s.bm s.arg2 (v.encodeFrom 0 us).code, rfl, fun j hj => ?_, ?_,
    hgroups ▸ hframe⟩
  · have hj' : j < us.length := hgroups ▸ hj
    dsimp only
    rw [← getElem_groups_bmRead s.bm s.arg0 hlen hj']
    exact ⟨v.stateAfter_take_succ hj', v.bmRead_group hread hj'⟩
  · have hend : v.stateAfter (us.take t) = (v.encodeFrom 0 us).state := by
      rw [← hgroups, List.take_length, Vit.stateAfter]
    dsimp only
    rw [hend]
    exact exec_vitEncode hs ht hl hsource hdest henc

/-! ### Injective codes -/

/-- From any state, codes whose coded groups tell the inputs apart tell input sequences apart (R204). -/
theorem Vit.encodeFrom_injective {v : Vit} (hv : legalTable v)
    (hout : ∀ st u u', st < v.states → u < v.inputs → u' < v.inputs → v.out st u = v.out st u' → u = u')
    {us us' : List Nat} (hus : ∀ u ∈ us, u < v.inputs) (hus' : ∀ u ∈ us', u < v.inputs)
    (hlen : us.length = us'.length) {st : Nat} (hst : st < v.states)
    (hcode : (v.encodeFrom st us).code = (v.encodeFrom st us').code) : us = us' := by
  induction us generalizing us' st with
  | nil => exact (List.length_eq_zero_iff.mp hlen.symm).symm
  | cons u us ih =>
    obtain _ | ⟨u', us'⟩ := us'
    · exact absurd hlen nofun
    · obtain ⟨hu, htail⟩ := List.forall_mem_cons.mp hus
      obtain ⟨hu', htail'⟩ := List.forall_mem_cons.mp hus'
      obtain ⟨hfirst, hrest⟩ := List.append_inj hcode (by simp)
      obtain rfl : u = u' :=
        hout st u u' hst hu hu' (bitsOf_inj (hv st u hst hu).2 (hv st u' hst hu').2 hfirst)
      rw [ih htail htail' (Nat.succ.inj hlen) (hv st u hst hu).1 hrest]

theorem Vit.legalTable_gentab {v : Vit} (h : legalGenerators v) : legalTable v.gentab := by
  intro st u hst hu
  obtain ⟨hk, hn, -⟩ := id h
  have hk : v.gentab.kBits = 1 := hk
  have hn : v.gentab.nBits = 2 := hn
  have hst : st < v.states := hst
  have hu : u < 2 := by rwa [hk] at hu
  have hstates := Vit.states_eq_two_mul_half h
  have ht0 := v.taps_lt st u v.g0
  have ht1 := v.taps_lt st u v.g1
  have hu' : u * v.half ≤ 1 * v.half := Nat.mul_le_mul_right _ (by omega)
  rw [Vit.next_gentab h hst hu, Vit.out_gentab h hst hu, hn]
  exact ⟨show _ < v.states by omega, by omega⟩

/-- A generator that taps the current input adds it to the taps on the state. -/
theorem Vit.taps_of_input {v : Vit} {g : BitVec 7} (hg : g.getLsbD v.m.toNat = true) {st u : Nat} (hst : st < v.states)
    (hu : u < 2) :
    v.taps st u g = (((List.range v.m.toNat).filter fun j => st.testBit j && g.getLsbD j).length + u) % 2 := by
  have htest : ∀ j, (u * 2 ^ v.m.toNat + st).testBit j
      = if j < v.m.toNat then st.testBit j else u.testBit (j - v.m.toNat) := fun j => by
    rw [Nat.mul_comm, Nat.testBit_two_pow_mul_add u hst]
  have hstate : ∀ j ∈ List.range v.m.toNat, ((u * 2 ^ v.m.toNat + st).testBit j && g.getLsbD j)
      = (st.testBit j && g.getLsbD j) := fun j hj => by
    rw [htest, if_pos (List.mem_range.mp hj)]
  have hinput : ([v.m.toNat].filter fun j => (u * 2 ^ v.m.toNat + st).testBit j && g.getLsbD j).length = u := by
    rw [List.filter_singleton, htest, if_neg (Nat.lt_irrefl _), Nat.sub_self, hg]
    interval_cases u <;> rfl
  rw [Vit.taps, List.range_succ, List.filter_append, List.length_append, List.filter_congr hstate, hinput]

/-- Settles O38: where two inputs leave a state, both output bits differ. -/
theorem generatorCodeIsInjective : Obligations.GeneratorCodeIsInjective := by
  intro s t h hg0 hg1 ht x y hlen hcode
  rw [vit_of_exec_vitGentab h ht] at hcode
  set v := s.vit
  have hk : v.gentab.kBits = 1 := h.1
  have hinputs : v.gentab.inputs = 2 := congrArg (2 ^ ·) h.1
  have hgroups : ∀ z : Bits, v.gentab.enc z = v.gentab.encodeFrom 0 (groups 1 z.length z) := fun z => by
    rw [Vit.enc_of_length (t := z.length) (by omega) (by rw [hk, Nat.mul_one]), hk]
  have hbits : ∀ z : Bits, (groups 1 z.length z).flatMap (bitsOf 1) = z := fun z => by
    rw [flatMap_bitsOf_groups (by omega), Nat.mul_one, List.take_length]
  rw [hgroups, hgroups] at hcode
  have hsame : groups 1 x.length x = groups 1 y.length y := by
    refine Vit.encodeFrom_injective (Vit.legalTable_gentab h) (fun st u u' hst hu hu' hout => ?_)
      (fun u hu => hinputs ▸ lt_of_mem_groups hu) (fun u hu => hinputs ▸ lt_of_mem_groups hu) (by simpa using hlen)
      (Nat.two_pow_pos _) hcode
    rw [hinputs] at hu hu'
    have hst : st < v.states := hst
    rw [Vit.out_gentab h hst hu, Vit.out_gentab h hst hu', Vit.taps_of_input hg0 hst hu,
      Vit.taps_of_input hg0 hst hu', Vit.taps_of_input hg1 hst hu, Vit.taps_of_input hg1 hst hu'] at hout
    omega
  rw [← hbits x, ← hbits y, hsame]

end Sys2Proof.Machine
end

/-! ## Hamming distances

SUPPORT. The distance of bit vectors, and the distance of their groups as the decoder computes it (00_scope.md R11). -/

section
namespace Sys2Proof.Machine

theorem hd_append {a b : Bits} (h : a.length = b.length) (a' b' : Bits) :
    hd (a ++ a') (b ++ b') = hd a b + hd a' b' := by
  rw [hd, List.zipWith_append h, List.sum_append, hd, hd]

theorem hd_cons (x y : Bool) (a b : Bits) : hd (x :: a) (y :: b) = (x ^^ y).toNat + hd a b := by
  rw [hd, List.zipWith_cons_cons, List.sum_cons, hd]

theorem hd_self (a : Bits) : hd a a = 0 := by
  induction a with
  | nil => rfl
  | cons x a ih => rw [hd_cons, ih, Bool.xor_self, Bool.toNat_false]

theorem eq_of_hd_eq_zero {a b : Bits} (hlen : a.length = b.length) (h : hd a b = 0) : a = b := by
  induction a generalizing b with
  | nil => exact (List.length_eq_zero_iff.mp hlen.symm).symm
  | cons x a ih =>
    obtain _ | ⟨y, b⟩ := b
    · exact absurd hlen nofun
    · obtain ⟨hx, htail⟩ : x = y ∧ hd a b = 0 := by simpa [hd_cons] using h
      rw [hx, ih (Nat.succ.inj hlen) htail]

theorem bitsOf_succ (n v : Nat) : bitsOf (n + 1) v = v.testBit n :: bitsOf n v := by
  simp only [bitsOf, List.range_succ_eq_map, List.map_cons, List.map_map, Function.comp_def, Nat.add_sub_cancel,
    Nat.sub_zero, Nat.succ_eq_add_one, Nat.sub_sub, Nat.add_comm 1]

theorem hammingBelow_succ (n a b : Nat) :
    hammingBelow (n + 1) a b = (a.testBit n ^^ b.testBit n).toNat + hammingBelow n a b := by
  rw [hammingBelow, onesBelow, List.range_succ, List.countP_append, List.countP_singleton, Nat.testBit_xor,
    Nat.add_comm, hammingBelow, onesBelow]
  cases a.testBit n ^^ b.testBit n <;> rfl

theorem hammingBelow_le (n a b : Nat) : hammingBelow n a b ≤ n :=
  List.countP_le_length.trans_eq (List.length_range ..)

theorem hd_bitsOf (n a b : Nat) : hd (bitsOf n a) (bitsOf n b) = hammingBelow n a b := by
  induction n with
  | zero => rfl
  | succ n ih => rw [bitsOf_succ, bitsOf_succ, hd_cons, hammingBelow_succ, ih]

end Sys2Proof.Machine
end

/-! ## Add-compare-select

SUPPORT. What one trellis step of the forward pass keeps into each state: the least candidate, and of several the first
in the order of the edges (43_viterbi.md R199). -/

section
namespace Sys2Proof.Machine

/-- The order of R199, or the same edge. -/
def edgeLe (e f : Nat × Nat) : Prop := e.1 < f.1 ∨ e.1 = f.1 ∧ e.2 ≤ f.2

theorem edgeLe_refl (e : Nat × Nat) : edgeLe e e := .inr ⟨rfl, le_rfl⟩

theorem edgeLt.le {e f : Nat × Nat} (h : edgeLt e f) : edgeLe e f := h.imp_right fun h => ⟨h.1, h.2.le⟩

/-- The edge leads from a reachable state into `s2`. -/
def Vit.Into (v : Vit) (pm : List Nat) (s2 : Nat) (e : Nat × Nat) : Prop :=
  pm.getD e.1 vitInf ≠ vitInf ∧ v.next e.1 e.2 = s2

/-- The metric of the path through an edge, `PM[s] + hd(OUT(s, u), r)`. -/
def Vit.candidate (v : Vit) (r : Nat) (pm : List Nat) (e : Nat × Nat) : Nat :=
  pm.getD e.1 vitInf + hammingBelow v.nBits (v.out e.1 e.2) r

/-- The metric and the survivor of `s2` after the edges `es` have been visited. -/
inductive Vit.Kept (v : Vit) (r : Nat) (pm : List Nat) (es : List (Nat × Nat)) (s2 : Nat) : Nat → Nat × Nat → Prop
  | unreached (e : Nat × Nat) (hnone : ∀ f ∈ es, ¬ v.Into pm s2 f) : Kept v r pm es s2 vitInf e
  | reached (e : Nat × Nat) (he : e ∈ es) (hinto : v.Into pm s2 e)
      (hleast : ∀ f ∈ es, v.Into pm s2 f →
        v.candidate r pm e < v.candidate r pm f ∨ v.candidate r pm e = v.candidate r pm f ∧ edgeLe e f) :
      Kept v r pm es s2 (v.candidate r pm e) e

section
variable {v : Vit} {r : Nat} {pm : List Nat} {es : List (Nat × Nat)} {s2 m : Nat} {e f : Nat × Nat}

theorem forall_mem_concat {α : Type} {l : List α} {a : α} {p : α → Prop} :
    (∀ x ∈ l ++ [a], p x) ↔ (∀ x ∈ l, p x) ∧ p a := by
  rw [List.forall_mem_append, List.forall_mem_singleton]

/-- An edge that does not lead into `s2` does not concern it. -/
theorem Vit.Kept.skip (h : v.Kept r pm es s2 m e) (hf : ¬ v.Into pm s2 f) : v.Kept r pm (es ++ [f]) s2 m e := by
  cases h with
  | unreached e hnone => exact .unreached e (forall_mem_concat.mpr ⟨hnone, hf⟩)
  | reached e he hinto hleast =>
    exact .reached e (List.mem_append_left _ he) hinto (forall_mem_concat.mpr ⟨hleast, fun hf' => absurd hf' hf⟩)

/-- A candidate that is not strictly better loses to the earlier edge. -/
theorem Vit.Kept.keep (h : v.Kept r pm es s2 m e) (hlater : ∀ e ∈ es, edgeLt e f) (hfin : v.candidate r pm f < vitInf)
    (hworse : ¬ v.candidate r pm f < m) : v.Kept r pm (es ++ [f]) s2 m e := by
  cases h with
  | unreached e hnone => exact absurd hfin hworse
  | reached e he hinto hleast =>
    refine .reached e (List.mem_append_left _ he) hinto (forall_mem_concat.mpr ⟨hleast, fun _ => ?_⟩)
    exact (Nat.lt_or_eq_of_le (Nat.le_of_not_lt hworse)).imp_right fun heq => ⟨heq, (hlater e he).le⟩

/-- A strictly better candidate becomes the survivor. -/
theorem Vit.Kept.replace (h : v.Kept r pm es s2 m e) (hf : v.Into pm s2 f) (hbetter : v.candidate r pm f < m) :
    v.Kept r pm (es ++ [f]) s2 (v.candidate r pm f) f := by
  refine .reached f (by simp) hf (forall_mem_concat.mpr ⟨fun g hg hinto => ?_, fun _ => .inr ⟨rfl, edgeLe_refl f⟩⟩)
  cases h with
  | unreached e hnone => exact absurd hinto (hnone g hg)
  | reached e he _ hleast =>
    have hle := hleast g hg hinto
    omega

end

theorem getD_set_self {α : Type} {l : List α} {i : Nat} (x d : α) (h : i < l.length) : (l.set i x).getD i d = x := by
  rw [List.getD_eq_getElem _ _ (by simpa using h), List.getElem_set_self]

theorem getD_set_ne {α : Type} (l : List α) {i j : Nat} (x d : α) (h : i ≠ j) : (l.set i x).getD j d = l.getD j d := by
  rw [List.getD_eq_getElem?_getD, List.getElem?_set_ne h, List.getD_eq_getElem?_getD]

/-- The row holds one metric and one survivor per state. -/
def AcsRow.Sized (row : AcsRow) (n : Nat) : Prop := row.metrics.length = n ∧ row.survivors.length = n

section
variable (v : Vit) (r : Nat) (pm : List Nat) {row : AcsRow} {n s2 : Nat} {e : Nat × Nat}

theorem Vit.sized_acsEdge (h : row.Sized n) (e : Nat × Nat) : (v.acsEdge r pm row e).Sized n := by
  obtain ⟨hm, hs⟩ := h
  unfold Vit.acsEdge
  dsimp only
  split
  · exact ⟨hm, hs⟩
  · split
    · exact ⟨(List.length_set ..).trans hm, (List.length_set ..).trans hs⟩
    · exact ⟨hm, hs⟩

/-- The better edge takes the place of the survivor. -/
theorem Vit.acsEdge_of_better (h : row.Sized n) (hs2 : s2 < n) (hinto : v.Into pm s2 e)
    (hbetter : v.candidate r pm e < row.metrics.getD s2 vitInf) :
    (v.acsEdge r pm row e).metrics.getD s2 vitInf = v.candidate r pm e
    ∧ (v.acsEdge r pm row e).survivors.getD s2 (0, 0) = e := by
  obtain ⟨hm, hs⟩ := h
  obtain ⟨hfrom, rfl⟩ := hinto
  rw [Vit.acsEdge, if_neg hfrom]
  dsimp only
  rw [← Vit.candidate, if_pos hbetter]
  exact ⟨getD_set_self _ _ (hm ▸ hs2), getD_set_self _ _ (hs ▸ hs2)⟩

/-- Any other edge leaves the entries of `s2` alone. -/
theorem Vit.acsEdge_of_not_better (hno : ¬ (v.Into pm s2 e ∧ v.candidate r pm e < row.metrics.getD s2 vitInf)) :
    (v.acsEdge r pm row e).metrics.getD s2 vitInf = row.metrics.getD s2 vitInf
    ∧ (v.acsEdge r pm row e).survivors.getD s2 (0, 0) = row.survivors.getD s2 (0, 0) := by
  unfold Vit.acsEdge
  dsimp only
  rw [← Vit.candidate]
  split
  · exact ⟨rfl, rfl⟩
  · next hfrom =>
    split
    · next hbetter =>
      have hne : v.next e.1 e.2 ≠ s2 := fun heq => hno ⟨⟨hfrom, heq⟩, heq ▸ hbetter⟩
      exact ⟨getD_set_ne _ _ _ hne, getD_set_ne _ _ _ hne⟩
    · exact ⟨rfl, rfl⟩

end

theorem Vit.sized_foldl_acsEdge (v : Vit) (r : Nat) (pm : List Nat) (es : List (Nat × Nat)) :
    (es.foldl (v.acsEdge r pm)
      ⟨List.replicate v.states vitInf, List.replicate v.states (0, 0)⟩).Sized v.states := by
  induction es using List.reverseRecOn with
  | nil => exact ⟨List.length_replicate .., List.length_replicate ..⟩
  | append_singleton es e ih =>
    rw [List.foldl_append]
    exact v.sized_acsEdge r pm ih e

/-- What is kept after the edges `es`, visited in ascending order, if no candidate reaches INF. -/
theorem Vit.kept_foldl_acsEdge (v : Vit) (r : Nat) (pm : List Nat) {es : List (Nat × Nat)}
    (hsorted : es.Pairwise edgeLt) (hfin : ∀ e ∈ es, pm.getD e.1 vitInf ≠ vitInf → v.candidate r pm e < vitInf)
    {s2 : Nat} (hs2 : s2 < v.states) {row : AcsRow}
    (hrow : es.foldl (v.acsEdge r pm) ⟨List.replicate v.states vitInf, List.replicate v.states (0, 0)⟩ = row) :
    v.Kept r pm es s2 (row.metrics.getD s2 vitInf) (row.survivors.getD s2 (0, 0)) := by
  induction es using List.reverseRecOn generalizing row with
  | nil =>
    subst hrow
    rw [List.foldl_nil, List.getD_replicate _ hs2]
    exact .unreached _ nofun
  | append_singleton es f ih =>
    rw [List.foldl_append, List.foldl_cons, List.foldl_nil] at hrow
    obtain ⟨hsorted, -, hlater⟩ := List.pairwise_append.mp hsorted
    obtain ⟨hfin, hfinf⟩ := forall_mem_concat.mp hfin
    have hbefore := ih hsorted hfin rfl
    have hsized := v.sized_foldl_acsEdge r pm es
    subst hrow
    generalize es.foldl _ _ = row at *
    by_cases hinto : v.Into pm s2 f
    · by_cases hbetter : v.candidate r pm f < row.metrics.getD s2 vitInf
      · obtain ⟨hm, hs⟩ := v.acsEdge_of_better r pm hsized hs2 hinto hbetter
        rw [hm, hs]
        exact hbefore.replace hinto hbetter
      · obtain ⟨hm, hs⟩ := v.acsEdge_of_not_better r pm fun h => hbetter h.2
        rw [hm, hs]
        exact hbefore.keep (fun e he => hlater e he f (by simp)) (hfinf hinto.1) hbetter
    · obtain ⟨hm, hs⟩ := v.acsEdge_of_not_better r pm fun h => hinto h.1
      rw [hm, hs]
      exact hbefore.skip hinto

theorem Vit.sized_acsStep (v : Vit) (r : Nat) (pm : List Nat) : (v.acsStep r pm).Sized v.states :=
  v.sized_foldl_acsEdge r pm v.edges

theorem Vit.kept_acsStep (v : Vit) (r : Nat) (pm : List Nat)
    (hfin : ∀ e ∈ v.edges, pm.getD e.1 vitInf ≠ vitInf → v.candidate r pm e < vitInf) {s2 : Nat}
    (hs2 : s2 < v.states) :
    v.Kept r pm v.edges s2 ((v.acsStep r pm).metrics.getD s2 vitInf) ((v.acsStep r pm).survivors.getD s2 (0, 0)) :=
  v.kept_foldl_acsEdge r pm v.pairwise_edges hfin hs2 rfl

end Sys2Proof.Machine
end

/-! ## The decoder

SUPPORT. The path that the forward pass and the backtrace keep into each state is the nearest one, by induction over the
received groups; then VIT_DECODE (43_viterbi.md R198 to R204). -/

section
namespace Sys2Proof.Machine

/-! ### Paths -/

/-- `us` is a sequence of `t` input values. -/
def Vit.Inputs (v : Vit) (t : Nat) (us : List Nat) : Prop := us.length = t ∧ ∀ u ∈ us, u < v.inputs

/-- The number of places in which the code of `us` disagrees with the received groups (R202). -/
def Vit.cost (v : Vit) (us rs : List Nat) : Nat := hd (v.encodeFrom 0 us).code (rs.flatMap (bitsOf v.nBits))

/-- At the last step at which the two paths differ, `us` takes the earlier edge (R199). -/
def Vit.TieBefore (v : Vit) (us us' : List Nat) : Prop :=
  ∀ j, j < us.length → (∀ k, j < k → k < us.length → v.stepEdge us k = v.stepEdge us' k) →
    edgeLe (v.stepEdge us j) (v.stepEdge us' j)

/-- `us` costs less than `us'`, or it costs as much and comes first. -/
def Vit.Beats (v : Vit) (rs us us' : List Nat) : Prop :=
  v.cost us rs < v.cost us' rs ∨ v.cost us rs = v.cost us' rs ∧ v.TieBefore us us'

/-- `us` is the path that R199 keeps into state `st`. -/
structure Vit.Survivor (v : Vit) (rs : List Nat) (st : Nat) (us : List Nat) : Prop where
  inputs : v.Inputs rs.length us
  ends : v.stateAfter us = st
  beats : ∀ us', v.Inputs rs.length us' → v.stateAfter us' = st → v.Beats rs us us'

theorem Vit.Beats.cost_le {v : Vit} {rs us us' : List Nat} (h : v.Beats rs us us') : v.cost us rs ≤ v.cost us' rs :=
  h.elim Nat.le_of_lt fun h => h.1.le

section
variable {v : Vit} {t : Nat} {us rs : List Nat} {u r : Nat}

theorem Vit.Inputs.concat (h : v.Inputs t us) (hu : u < v.inputs) : v.Inputs (t + 1) (us ++ [u]) :=
  ⟨by simp [h.1], forall_mem_concat.mpr ⟨h.2, hu⟩⟩

theorem Vit.Inputs.eq_concat (h : v.Inputs (t + 1) us) :
    ∃ us' u, us = us' ++ [u] ∧ v.Inputs t us' ∧ u < v.inputs := by
  obtain ⟨hlen, hlt⟩ := h
  obtain rfl | ⟨us', u, rfl⟩ := List.eq_nil_or_concat us
  · exact absurd hlen nofun
  · rw [List.concat_eq_append] at hlen hlt ⊢
    obtain ⟨hlt, hu⟩ := forall_mem_concat.mp hlt
    exact ⟨us', u, rfl, ⟨by simpa using hlen, hlt⟩, hu⟩

theorem Vit.Inputs.stateAfter_lt (hv : legalTable v) (h : v.Inputs t us) : v.stateAfter us < v.states := by
  induction us using List.reverseRecOn generalizing t with
  | nil => exact Nat.two_pow_pos _
  | append_singleton us u ih =>
    obtain ⟨hus, hu⟩ := forall_mem_concat.mp h.2
    rw [Vit.stateAfter_concat]
    exact (hv _ u (ih ⟨rfl, hus⟩) hu).1

theorem Vit.cost_concat (hlen : us.length = rs.length) :
    v.cost (us ++ [u]) (rs ++ [r]) = v.cost us rs + hammingBelow v.nBits (v.out (v.stateAfter us) u) r := by
  have hcode : (v.encodeFrom 0 us).code.length = (rs.flatMap (bitsOf v.nBits)).length := by
    rw [length_encodeFrom, length_flatMap_bitsOf, hlen]
  rw [Vit.cost, Vit.code_concat, List.flatMap_append, List.flatMap_singleton, hd_append hcode, hd_bitsOf, Vit.cost]

/-- A path is never further off than the whole received vector is long (R199). -/
theorem Vit.cost_le (v : Vit) {us rs : List Nat} (hlen : us.length = rs.length) :
    v.cost us rs ≤ rs.length * v.nBits := by
  induction rs using List.reverseRecOn generalizing us with
  | nil => rw [List.length_eq_zero_iff.mp hlen]; exact Nat.zero_le _
  | append_singleton rs r ih =>
    obtain rfl | ⟨us, u, rfl⟩ := List.eq_nil_or_concat us
    · simp at hlen
    · rw [List.concat_eq_append] at hlen ⊢
      have hlen : us.length = rs.length := by simpa using hlen
      have hlast := hammingBelow_le v.nBits (v.out (v.stateAfter us) u) r
      have hbefore := ih hlen
      rw [Vit.cost_concat hlen, List.length_append, List.length_singleton, Nat.succ_mul]
      omega

end

/-! ### One more step -/

section
variable {v : Vit} {rs p us : List Nat} {r : Nat} {e : Nat × Nat} {u : Nat}

/-- Extended by the earlier edge, or by one edge, the path that came first still does. -/
theorem Vit.TieBefore.concat (hlen : p.length = us.length) (hedge : edgeLe (v.stateAfter p, e.2) (v.stateAfter us, u))
    (hsame : (v.stateAfter p, e.2) = (v.stateAfter us, u) → v.TieBefore p us) :
    v.TieBefore (p ++ [e.2]) (us ++ [u]) := by
  have hp := v.stepEdge_concat_length p e.2
  have hus := v.stepEdge_concat_length us u
  rw [← hlen] at hus
  intro j hj hafter
  have hlast : (p ++ [e.2]).length = p.length + 1 := by simp
  rw [hlast] at hj hafter
  rcases Nat.lt_succ_iff_lt_or_eq.mp hj with hlt | rfl
  · have heq := hafter p.length hlt (Nat.lt_succ_self _)
    rw [hp, hus] at heq
    rw [v.stepEdge_concat_of_lt _ hlt, v.stepEdge_concat_of_lt _ (hlen ▸ hlt)]
    refine hsame heq j hlt fun k hjk hk => ?_
    have hthen := hafter k hjk (hk.trans (Nat.lt_succ_self _))
    rwa [v.stepEdge_concat_of_lt _ hk, v.stepEdge_concat_of_lt _ (hlen ▸ hk)] at hthen
  · rwa [hp, hus]

/-- The survivor of the state that a least and earliest edge comes from, extended by that edge, is a survivor. -/
theorem Vit.Survivor.concat (hp : v.Survivor rs e.1 p) (he : e.2 < v.inputs)
    (hleast : ∀ us u, v.Inputs rs.length us → u < v.inputs → v.next (v.stateAfter us) u = v.next e.1 e.2 →
      v.cost (p ++ [e.2]) (rs ++ [r]) < v.cost (us ++ [u]) (rs ++ [r])
      ∨ v.cost (p ++ [e.2]) (rs ++ [r]) = v.cost (us ++ [u]) (rs ++ [r]) ∧ edgeLe e (v.stateAfter us, u)) :
    v.Survivor (rs ++ [r]) (v.next e.1 e.2) (p ++ [e.2]) := by
  obtain ⟨hinputs, hends, hbeats⟩ := hp
  have hlength : (rs ++ [r]).length = rs.length + 1 := by simp
  refine ⟨hlength ▸ hinputs.concat he, by rw [Vit.stateAfter_concat, hends], fun us' hus' hends' => ?_⟩
  obtain ⟨us, u, rfl, hus, hu⟩ := Vit.Inputs.eq_concat (hlength ▸ hus')
  rw [Vit.stateAfter_concat] at hends'
  have hlen : p.length = us.length := hinputs.1.trans hus.1.symm
  refine (hleast us u hus hu hends').imp_right fun ⟨hcost, hedge⟩ => ⟨hcost, ?_⟩
  refine Vit.TieBefore.concat hlen (hends ▸ hedge) fun hsame => ?_
  obtain ⟨hstate, hinput⟩ := Prod.mk.inj hsame
  rw [Vit.cost_concat hinputs.1, Vit.cost_concat hus.1, hstate, hinput] at hcost
  exact ((hbeats us hus (hstate ▸ hends)).resolve_left (by omega)).2

end

/-! ### The forward pass -/

theorem backtrace_append (rows : List (List (Nat × Nat))) (s : Nat) (us : List Nat) :
    backtrace rows s us = backtrace rows s [] ++ us := by
  induction rows generalizing s us with
  | nil => rfl
  | cons row rows ih => rw [backtrace, backtrace, ih, ih _ [_], List.append_assoc, List.singleton_append]

theorem Vit.forward_concat (v : Vit) (rs : List Nat) (r : Nat) (fw : Forward) :
    v.forward (rs ++ [r]) fw
      = ⟨(v.acsStep r (v.forward rs fw).metrics).metrics,
        (v.acsStep r (v.forward rs fw).metrics).survivors :: (v.forward rs fw).survivors⟩ := by
  induction rs generalizing fw with
  | nil => rfl
  | cons w rs ih => rw [List.cons_append, Vit.forward, ih, Vit.forward]

/-- What the tables hold for state `st` after the groups `rs`: INF if no path ends there, or the cost of the survivor,
which is the path that the backtrace finds. -/
inductive Vit.Tracked (v : Vit) (rs : List Nat) (fw : Forward) (st : Nat) : Prop
  | unreached (hinf : fw.metrics.getD st vitInf = vitInf)
      (hnone : ∀ us, v.Inputs rs.length us → v.stateAfter us ≠ st)
  | reached (hsurvivor : v.Survivor rs st (backtrace fw.survivors st []))
      (hmetric : fw.metrics.getD st vitInf = v.cost (backtrace fw.survivors st []) rs)

section
variable {v : Vit} {rs us : List Nat} {fw : Forward} {st : Nat}

theorem Vit.Tracked.survivor (h : v.Tracked rs fw st) (hfin : fw.metrics.getD st vitInf ≠ vitInf) :
    v.Survivor rs st (backtrace fw.survivors st [])
    ∧ fw.metrics.getD st vitInf = v.cost (backtrace fw.survivors st []) rs := by
  cases h with
  | unreached hinf _ => exact absurd hinf hfin
  | reached hsurvivor hmetric => exact ⟨hsurvivor, hmetric⟩

/-- The metric of a state that a path ends in is at most the path's cost, and finite. -/
theorem Vit.Tracked.metric_le (h : v.Tracked rs fw st) (hsize : rs.length * v.nBits < vitInf)
    (hus : v.Inputs rs.length us) (hends : v.stateAfter us = st) :
    fw.metrics.getD st vitInf ≤ v.cost us rs ∧ fw.metrics.getD st vitInf < vitInf := by
  cases h with
  | unreached _ hnone => exact absurd hends (hnone us hus)
  | reached hsurvivor hmetric =>
    rw [hmetric]
    exact ⟨(hsurvivor.beats us hus hends).cost_le, (v.cost_le hsurvivor.inputs.1).trans_lt hsize⟩

theorem Vit.tracked_start (hst : st < v.states) : v.Tracked [] ⟨v.startMetrics, []⟩ st := by
  have hlen : (List.replicate v.states vitInf).length = v.states := List.length_replicate ..
  have hempty : ∀ us, v.Inputs 0 us → us = [] := fun us h => List.length_eq_zero_iff.mp h.1
  by_cases h0 : st = 0
  · subst h0
    refine .reached ⟨⟨rfl, nofun⟩, rfl, fun us hus _ => ?_⟩ (getD_set_self _ _ (hlen.symm ▸ hst))
    rw [hempty us hus]
    exact .inr ⟨rfl, nofun⟩
  · refine .unreached ?_ fun us hus hends => h0 ?_
    · exact (getD_set_ne _ _ _ (Ne.symm h0)).trans (List.getD_replicate _ hst)
    · rw [← hends, hempty us hus, Vit.stateAfter_nil]

/-- The edge on which an input continues a path is a candidate, and costs at most what the continued path does. -/
theorem Vit.candidate_le (hv : legalTable v) (h : ∀ s, s < v.states → v.Tracked rs fw s)
    (hsize : rs.length * v.nBits < vitInf) (r : Nat) (hus : v.Inputs rs.length us) {u : Nat} (hu : u < v.inputs)
    (hnext : v.next (v.stateAfter us) u = st) :
    (v.stateAfter us, u) ∈ v.edges ∧ v.Into fw.metrics st (v.stateAfter us, u)
    ∧ v.candidate r fw.metrics (v.stateAfter us, u) ≤ v.cost (us ++ [u]) (rs ++ [r]) := by
  have hlt := hus.stateAfter_lt hv
  obtain ⟨hle, hfin⟩ := (h _ hlt).metric_le hsize hus rfl
  rw [Vit.cost_concat hus.1]
  exact ⟨Vit.mem_edges.mpr ⟨hlt, hu⟩, ⟨hfin.ne, hnext⟩, Nat.add_le_add_right hle _⟩

/-- An edge from a reachable state costs what the survivor of that state does when it is continued by the edge. -/
theorem Vit.Tracked.candidate_eq {e : Nat × Nat} (h : v.Tracked rs fw e.1)
    (hfrom : fw.metrics.getD e.1 vitInf ≠ vitInf) (r : Nat) :
    v.candidate r fw.metrics e = v.cost (backtrace fw.survivors e.1 [] ++ [e.2]) (rs ++ [r]) := by
  obtain ⟨hsurvivor, hmetric⟩ := h.survivor hfrom
  rw [Vit.cost_concat hsurvivor.inputs.1, hsurvivor.ends, Vit.candidate, hmetric]

theorem Vit.Tracked.candidate_lt {e : Nat × Nat} (h : v.Tracked rs fw e.1)
    (hsize : (rs.length + 1) * v.nBits < vitInf) (hfrom : fw.metrics.getD e.1 vitInf ≠ vitInf) (r : Nat) :
    v.candidate r fw.metrics e < vitInf := by
  obtain ⟨hlen, -⟩ := (h.survivor hfrom).1.inputs
  have hcost := v.cost_le (us := backtrace fw.survivors e.1 [] ++ [e.2]) (rs := rs ++ [r]) (by simp [hlen])
  rw [List.length_append, List.length_singleton] at hcost
  rw [h.candidate_eq hfrom]
  omega

/-- One add-compare-select keeps the survivors (R199). -/
theorem Vit.tracked_acsStep (hv : legalTable v) (h : ∀ s, s < v.states → v.Tracked rs fw s) (r : Nat)
    (hsize : (rs.length + 1) * v.nBits < vitInf) (hst : st < v.states) :
    v.Tracked (rs ++ [r])
      ⟨(v.acsStep r fw.metrics).metrics, (v.acsStep r fw.metrics).survivors :: fw.survivors⟩ st := by
  have hsize' : rs.length * v.nBits < vitInf := lt_of_le_of_lt (Nat.mul_le_mul_right _ (Nat.le_succ _)) hsize
  have hkept := v.kept_acsStep r fw.metrics
    (fun e he hfrom => (h e.1 (Vit.mem_edges.mp he).1).candidate_lt hsize hfrom r) hst
  generalize hm : (v.acsStep r fw.metrics).metrics.getD st vitInf = m at hkept
  generalize he : (v.acsStep r fw.metrics).survivors.getD st (0, 0) = e at hkept
  cases hkept with
  | unreached e hnone =>
    refine .unreached hm fun us hus hends => ?_
    rw [List.length_append, List.length_singleton] at hus
    obtain ⟨us, u, rfl, hus, hu⟩ := hus.eq_concat
    rw [Vit.stateAfter_concat] at hends
    obtain ⟨hmem, hinto, -⟩ := Vit.candidate_le hv h hsize' r hus hu hends
    exact hnone _ hmem hinto
  | reached e hmem hinto hleast =>
    obtain ⟨hfrom, rfl⟩ := hinto
    obtain ⟨hs, hu⟩ := Vit.mem_edges.mp hmem
    have hcost := (h _ hs).candidate_eq hfrom r
    have hpath : backtrace ((v.acsStep r fw.metrics).survivors :: fw.survivors) (v.next e.1 e.2) []
        = backtrace fw.survivors e.1 [] ++ [e.2] := by
      rw [backtrace, he, backtrace_append]
    refine .reached ?_ ?_
    · rw [hpath]
      refine ((h _ hs).survivor hfrom).1.concat hu fun us u hus hu' hnext => ?_
      obtain ⟨hmem', hinto', hle⟩ := Vit.candidate_le hv h hsize' r hus hu' hnext
      rw [← hcost]
      rcases hleast _ hmem' hinto' with hlt | ⟨heq, hedge⟩
      · exact .inl (hlt.trans_le hle)
      · exact (Nat.lt_or_eq_of_le (heq.trans_le hle)).imp_right fun h => ⟨h, hedge⟩
    · rw [hpath, ← hcost]
      exact hm

/-- The tables of the forward pass. -/
theorem Vit.tracked_forward (hv : legalTable v) (hsize : rs.length * v.nBits < vitInf) :
    ∀ s, s < v.states → v.Tracked rs (v.forward rs ⟨v.startMetrics, []⟩) s := by
  induction rs using List.reverseRecOn with
  | nil => exact fun s hs => Vit.tracked_start hs
  | append_singleton rs r ih =>
    rw [List.length_append, List.length_singleton] at hsize
    have hbefore := ih (lt_of_le_of_lt (Nat.mul_le_mul_right _ (Nat.le_succ _)) hsize)
    rw [Vit.forward_concat]
    exact fun s hs => Vit.tracked_acsStep hv hbefore r hsize hs

theorem Vit.length_metrics_forward (v : Vit) (rs : List Nat) :
    (v.forward rs ⟨v.startMetrics, []⟩).metrics.length = v.states := by
  obtain rfl | ⟨rs, r, rfl⟩ := List.eq_nil_or_concat rs
  · exact (List.length_set ..).trans (List.length_replicate ..)
  · rw [List.concat_eq_append, Vit.forward_concat]
    exact (v.sized_acsStep r _).1

end

/-! ### The final state -/

theorem leastMetric_le {pm : List Nat} {m : Nat} (h : m ∈ pm) : leastMetric pm ≤ m := by
  obtain ⟨least, hleast⟩ := Option.isSome_iff_exists.mp (List.isSome_min?_of_mem h)
  rw [leastMetric, List.foldl_min, hleast, Option.getD_some]
  exact (Nat.min_le_right _ _).trans ((List.min?_eq_some_iff.mp hleast).2 m h)

theorem leastMetric_mem {pm : List Nat} {m : Nat} (h : m ∈ pm) (hm : m < vitInf) : leastMetric pm ∈ pm := by
  obtain ⟨least, hleast⟩ := Option.isSome_iff_exists.mp (List.isSome_min?_of_mem h)
  obtain ⟨hmem, hle⟩ := List.min?_eq_some_iff.mp hleast
  rw [leastMetric, List.foldl_min, hleast, Option.getD_some, Nat.min_eq_right ((hle m h).trans hm.le)]
  exact hmem

/-- R200: no state has a lower metric, and none of as low a metric a lower index. -/
theorem finalState_spec {pm : List Nat} {s : Nat} (hs : s < pm.length) (hfin : pm.getD s vitInf < vitInf) :
    finalState pm < pm.length
    ∧ ∀ s', s' < pm.length → pm.getD (finalState pm) vitInf < pm.getD s' vitInf
      ∨ pm.getD (finalState pm) vitInf = pm.getD s' vitInf ∧ finalState pm ≤ s' := by
  rw [List.getD_eq_getElem _ _ hs] at hfin
  have hlt : finalState pm < pm.length :=
    List.findIdx_lt_length_of_exists ⟨leastMetric pm, leastMetric_mem (List.getElem_mem hs) hfin, beq_self_eq_true _⟩
  have hleast : pm[finalState pm] = leastMetric pm := beq_iff_eq.mp (List.findIdx_getElem (w := hlt))
  refine ⟨hlt, fun s' hs' => ?_⟩
  rw [List.getD_eq_getElem _ _ hlt, List.getD_eq_getElem _ _ hs', hleast]
  refine (Nat.lt_or_eq_of_le (leastMetric_le (List.getElem_mem hs'))).imp_right fun heq => ⟨heq, ?_⟩
  refine Nat.le_of_not_lt fun hbefore => ?_
  exact beq_eq_false_iff_ne.mp (List.not_of_lt_findIdx hbefore) heq.symm

/-! ### The decode -/

/-- What the decode of the groups `rs` is: a survivor of its end state, with the cost as its metric, and no path is
nearer or, equally near, ends in a lower state (R199 to R202). -/
theorem Vit.decodeGroups_spec {v : Vit} (hv : legalTable v) {rs : List Nat} (hsize : rs.length * v.nBits < vitInf)
    {d : VitDecoded} (hdecode : v.decodeGroups rs = d) :
    v.Survivor rs d.final d.inputs ∧ d.metric = v.cost d.inputs rs
    ∧ ∀ us, v.Inputs rs.length us →
      v.cost d.inputs rs < v.cost us rs ∨ v.cost d.inputs rs = v.cost us rs ∧ d.final ≤ v.stateAfter us := by
  subst hdecode
  have htracked := Vit.tracked_forward hv hsize
  have hlen := v.length_metrics_forward rs
  rw [Vit.decodeGroups]
  dsimp only
  generalize v.forward rs ⟨v.startMetrics, []⟩ = fw at htracked hlen ⊢
  have hzeros : v.Inputs rs.length (List.replicate rs.length 0) :=
    ⟨List.length_replicate .., fun u hu => List.eq_of_mem_replicate hu ▸ Nat.two_pow_pos _⟩
  have hzeros_lt := hzeros.stateAfter_lt hv
  obtain ⟨-, hzeros_fin⟩ := (htracked _ hzeros_lt).metric_le hsize hzeros rfl
  obtain ⟨hfinal, hleast⟩ := finalState_spec (hlen.symm ▸ hzeros_lt) hzeros_fin
  have hfin : fw.metrics.getD (finalState fw.metrics) vitInf ≠ vitInf := by
    have := hleast _ (hlen.symm ▸ hzeros_lt)
    omega
  obtain ⟨hsurvivor, hmetric⟩ := (htracked _ (hlen ▸ hfinal)).survivor hfin
  refine ⟨hsurvivor, hmetric, fun us hus => ?_⟩
  have hus_lt := hus.stateAfter_lt hv
  obtain ⟨hle, -⟩ := (htracked _ hus_lt).metric_le hsize hus rfl
  have hbest := hleast _ (hlen.symm ▸ hus_lt)
  omega

/-! ### The decode on bits -/

theorem legalShape.size_lt {v : Vit} (h : legalShape v) {t : Nat} (ht : t ≤ 1024) : t * v.nBits < vitInf := by
  obtain ⟨hkn, -⟩ := h
  have hn : v.nBits ≤ 4 := by omega
  exact (Nat.mul_le_mul ht hn).trans_lt (by decide)

theorem Vit.inputs_groups (v : Vit) (t : Nat) (info : Bits) : v.Inputs t (groups v.kBits t info) :=
  ⟨length_groups .., fun _ hu => lt_of_mem_groups hu⟩

/-- `dec` is the first of the nearest information vectors of `t` groups (R199, R200). -/
def Vit.FirstNearest (v : Vit) (t : Nat) (received dec : Bits) : Prop :=
  ∀ info : Bits, info.length = t * v.kBits →
    hd (v.enc dec).code received ≤ hd (v.enc info).code received
    ∧ (hd (v.enc dec).code received = hd (v.enc info).code received →
        (v.enc dec).state ≤ (v.enc info).state
        ∧ ((v.enc dec).state = (v.enc info).state →
            ∀ j, j < t → (∀ k, j < k → k < t → v.edgeAt dec k = v.edgeAt info k) →
              edgeLe (v.edgeAt dec j) (v.edgeAt info j)))

/-- The tie break on paths is the one on the information vectors they are the groups of. -/
theorem Vit.TieBefore.edgeAt {v : Vit} (hk : 0 < v.kBits) {t : Nat} {dec info : Bits} (hdec : dec.length = t * v.kBits)
    (hinfo : info.length = t * v.kBits) (h : v.TieBefore (groups v.kBits t dec) (groups v.kBits t info)) {j : Nat}
    (hj : j < t) (hafter : ∀ k, j < k → k < t → v.edgeAt dec k = v.edgeAt info k) :
    edgeLe (v.edgeAt dec j) (v.edgeAt info j) := by
  have hlen : (groups v.kBits t dec).length = t := length_groups ..
  rw [Vit.edgeAt_eq_stepEdge hk hdec hj, Vit.edgeAt_eq_stepEdge hk hinfo hj]
  refine h j (hlen.symm ▸ hj) fun k hjk hkt => ?_
  rw [hlen] at hkt
  rw [← Vit.edgeAt_eq_stepEdge hk hdec hkt, ← Vit.edgeAt_eq_stepEdge hk hinfo hkt, hafter k hjk hkt]

/-- The decode of `t` coded groups, in terms of the encoder function (R202). -/
theorem Vit.decodeGroups_bits {v : Vit} (hs : legalShape v) (hv : legalTable v) {t : Nat} (ht : t ≤ 1024) {coded : Bits}
    (hcoded : t * v.nBits ≤ coded.length) {d : VitDecoded} (hdecode : v.decodeGroups (groups v.nBits t coded) = d)
    {dec : Bits} (hbits : d.inputs.flatMap (bitsOf v.kBits) = dec) :
    dec.length = t * v.kBits ∧ d.metric = hd (v.enc dec).code (coded.take (t * v.nBits))
    ∧ d.final = (v.enc dec).state ∧ v.FirstNearest t (coded.take (t * v.nBits)) dec := by
  have hk := hs.kBits_pos
  have hreceived := flatMap_bitsOf_groups hcoded
  have hrs : (groups v.nBits t coded).length = t := length_groups ..
  generalize groups v.nBits t coded = rs at hdecode hreceived hrs
  obtain ⟨⟨⟨hlen, hinputs⟩, hends, hbeats⟩, hmetric, hbest⟩ :=
    Vit.decodeGroups_spec hv (hrs.symm ▸ hs.size_lt ht) hdecode
  rw [hrs] at hlen hbeats hbest
  have hdec : dec.length = t * v.kBits := by rw [← hbits, length_flatMap_bitsOf, hlen]
  have hgroups : groups v.kBits t dec = d.inputs := by rw [← hbits, ← hlen, groups_flatMap_bitsOf hinputs]
  have henc : v.enc dec = v.encodeFrom 0 d.inputs := by rw [Vit.enc_of_length hk hdec, hgroups]
  rw [← hreceived, Vit.FirstNearest, henc]
  refine ⟨hdec, hmetric, hends.symm, fun info hinfo => ?_⟩
  have hpath := v.inputs_groups t info
  have hnear := hbest _ hpath
  rw [Vit.enc_of_length hk hinfo, ← Vit.cost, ← Vit.cost, ← Vit.stateAfter, ← Vit.stateAfter, hends]
  refine ⟨hnear.elim Nat.le_of_lt fun h => h.1.le, fun hcost => ⟨(hnear.resolve_left hcost.not_lt).2, fun hstate => ?_⟩⟩
  obtain ⟨-, htie⟩ := (hbeats _ hpath hstate.symm).resolve_left hcost.not_lt
  rw [← hgroups] at htie
  exact fun j hj hafter => htie.edgeAt hk hdec hinfo hj hafter

/-! ### The command -/

theorem exec_vitDecode {s : State} (hs : legalShape s.vit) (ht : legalTable s.vit) (hl : s.arg1 / s.vit.nBits ≤ 1024)
    (hsource : inBm s.arg0 s.arg1) (hdest : inBm s.arg2 (s.arg1 / s.vit.nBits * s.vit.kBits)) {d : VitDecoded}
    (hdecode : s.vit.decodeGroups (groups s.vit.nBits (s.arg1 / s.vit.nBits) (bmRead s.bm s.arg0 s.arg1)) = d) :
    exec .vitDecode s =
      .next (completed 0x32#8
        ⟨BitVec.ofNat 32 (s.arg1 / s.vit.nBits * s.vit.kBits), BitVec.ofNat 32 (d.metric + s.arg1 % s.vit.nBits),
          BitVec.ofNat 32 d.final, BitVec.ofNat 32 (s.arg1 % s.vit.nBits)⟩
        { s with
          bm := bmWrite s.bm s.arg2 (d.inputs.flatMap (bitsOf s.vit.kBits))
          ccnt := saturated s.ccnt (d.metric + s.arg1 % s.vit.nBits) }) := by
  subst hdecode
  exact runCommand_of_checks (firstFailure_trellisChecks_of_ok hs ht hl ⟨hsource, hdest⟩)

/-- Settles O36: the bits written are the first of the nearest information vectors. -/
theorem decodeFindsANearestSequence : Obligations.DecodeFindsANearestSequence := by
  intro s hs ht hl hsource hdest
  have hexec := exec_vitDecode hs ht hl hsource hdest rfl
  have hsteps : s.arg1 / s.vit.nBits * s.vit.nBits ≤ (bmRead s.bm s.arg0 s.arg1).length := by
    rw [length_bmRead]
    exact Nat.div_mul_le_self ..
  obtain ⟨hlen, hmetric, hfinal, hfirst⟩ := Vit.decodeGroups_bits hs ht hl hsteps rfl rfl
  generalize s.vit.decodeGroups _ = d at hexec hlen hmetric hfinal hfirst
  generalize d.inputs.flatMap _ = dec at hexec hlen hmetric hfinal hfirst
  have hread := bmRead_bmWrite_self s.bm s.arg2 dec
  have hframe := onlyBitsWritten_bmWrite s.bm s.arg2 dec
  rw [hlen] at hread hframe
  rw [hmetric, hfinal] at hexec
  refine ⟨bmWrite s.bm s.arg2 dec, ?_⟩
  dsimp only
  rw [hread]
  exact ⟨hexec, hframe, hfirst⟩

theorem saturated_zero (c : Word) : saturated c 0 = c := by
  rw [saturated, Nat.add_zero, Nat.min_eq_left (by have := c.isLt; omega), BitVec.ofNat_toNat, BitVec.setWidth_eq]

/-- Settles O37: nothing is nearer than the clean codeword itself, and only `info` is as near. -/
theorem cleanCodewordDecodesToItsInformation : Obligations.CleanCodewordDecodesToItsInformation := by
  intro s info hs ht hl htrunc hsource hdest hinfo hcode hinj
  obtain ⟨m', hexec, -, hbest⟩ := decodeFindsANearestSequence s hs ht hl hsource hdest
  have hwhole : s.arg1 / s.vit.nBits * s.vit.nBits = s.arg1 := Nat.div_mul_cancel (Nat.dvd_of_mod_eq_zero htrunc)
  have hreceived : (bmRead s.bm s.arg0 s.arg1).take (s.arg1 / s.vit.nBits * s.vit.nBits) = (s.vit.enc info).code := by
    rw [hwhole, List.take_of_length_le (length_bmRead ..).le, hcode]
  rw [hreceived, htrunc] at hexec
  obtain ⟨hle, -⟩ := hbest info hinfo
  rw [hreceived, hd_self, Nat.le_zero] at hle
  have hlen : (bmRead m' s.arg2 (s.arg1 / s.vit.nBits * s.vit.kBits)).length = info.length :=
    (length_bmRead ..).trans hinfo.symm
  have hdec := hinj _ hlen (eq_of_hd_eq_zero (by rw [length_enc, length_enc, hlen]) hle)
  rw [hle, saturated_zero] at hexec
  exact ⟨_, hexec, rfl, hinfo ▸ hdec, rfl, rfl⟩

end Sys2Proof.Machine
end

/-! ## BCH checks

SUPPORT. The checks of the BCH commands in plain numbers (44_bch.md R221, R231, R234). -/

section
namespace Sys2Proof.Machine

/-- The checks that BCH_ENCODE and BCH_DECODE make (R231, R234): the configuration, the length `k` of the source, and the
two ranges. -/
def bchChecks (configOk : Bool) (a n k d : Nat) : List (Bool × CmdError) :=
  [(configOk, .config), (decide (n = k), .length), (validRange a k, .range), (validRange d 63, .range)]

section
variable {configOk : Bool} {a n k d : Nat}

theorem firstFailure_bchChecks_of_config (hc : configOk = false) :
    firstFailure (bchChecks configOk a n k d) = some .config := by
  rw [bchChecks, hc, firstFailure_cons_false]

theorem firstFailure_bchChecks_of_length (hc : configOk = true) (hn : n ≠ k) :
    firstFailure (bchChecks configOk a n k d) = some .length := by
  rw [bchChecks, hc, firstFailure_cons_true, decide_eq_false hn, firstFailure_cons_false]

theorem firstFailure_bchChecks_of_range (hc : configOk = true) (hn : n = k) (hr : ¬ (inBm a n ∧ inBm d 63)) :
    firstFailure (bchChecks configOk a n k d) = some .range := by
  rw [bchChecks, hc, firstFailure_cons_true, decide_eq_true hn, firstFailure_cons_true,
    firstFailure_of_rangeOutsideBm (hn ▸ hr)]

theorem firstFailure_bchChecks_of_ok (hc : configOk = true) (hn : n = k) (hr : inBm a n ∧ inBm d 63) :
    firstFailure (bchChecks configOk a n k d) = none := by
  rw [bchChecks, hc, firstFailure_cons_true, decide_eq_true hn, firstFailure_cons_true,
    firstFailure_of_rangesInBm (hn ▸ hr)]

end

/-- R221 in plain numbers: GEN is no constant, and its degree is less than the code's length. -/
theorem Bch.genOk_iff {b : Bch} : b.genOk = true ↔ 2 ≤ b.gen ∧ b.gen < 2 ^ 63 := by
  have hlt : b.gen < 2 ^ 64 := (b.genHi ++ b.genLo).isLt
  rw [Bch.genOk, Bool.and_eq_true, Bool.and_eq_true, decide_eq_true_eq, decide_eq_true_eq, decide_eq_true_eq,
    Bch.degree]
  constructor
  · rintro ⟨⟨hzero, hlow⟩, hhigh⟩
    have hdegree : b.gen.log2 < 64 := (Nat.log2_lt hzero).mpr hlt
    exact ⟨(Nat.le_log2 hzero).mp (Nat.pos_of_ne_zero hlow), (Nat.log2_lt hzero).mp (by omega)⟩
  · rintro ⟨hlow, hhigh⟩
    have hzero : b.gen ≠ 0 := by omega
    have hpos : 1 ≤ b.gen.log2 := (Nat.le_log2 hzero).mpr hlow
    have hdegree : b.gen.log2 < 63 := (Nat.log2_lt hzero).mpr hhigh
    exact ⟨⟨hzero, by omega⟩, by omega⟩

theorem Bch.genOk_eq_false {b : Bch} (h : b.gen = 0 ∨ b.gen = 1 ∨ 2 ^ 63 ≤ b.gen) : b.genOk = false := by
  rw [← Bool.not_eq_true, Bch.genOk_iff]
  omega

/-- BCH_DECODE rejects t = 0 and no other t (R221). -/
theorem decide_toNat_ne_zero {t : BitVec 4} : decide (t.toNat ≠ 0) = true ↔ t ≠ 0#4 := by
  rw [decide_eq_true_eq, ne_eq, ne_eq, BitVec.toNat_eq, BitVec.toNat_ofNat, Nat.zero_mod]

/-- Settles O15: each clause names the first of the command's checks to fail. -/
theorem bchErrorsInOrder : Obligations.BchErrorsInOrder := by
  intro s
  refine ⟨fun hg => ?_, fun hlow hhigh => ⟨fun hn => ?_, fun hn hr => ?_⟩, fun ht => ?_,
    fun ht => ⟨fun hn => ?_, fun hn hr => ?_⟩⟩
  · exact runCommand_of_failure (firstFailure_bchChecks_of_config (Bch.genOk_eq_false hg))
  · exact runCommand_of_failure (firstFailure_bchChecks_of_length (Bch.genOk_iff.mpr ⟨hlow, hhigh⟩) hn)
  · exact runCommand_of_failure (firstFailure_bchChecks_of_range (Bch.genOk_iff.mpr ⟨hlow, hhigh⟩) hn hr)
  · exact runCommand_of_failure (firstFailure_bchChecks_of_config (by rw [ht]; rfl))
  · exact runCommand_of_failure (firstFailure_bchChecks_of_length (decide_toNat_ne_zero.mpr ht) hn)
  · exact runCommand_of_failure (firstFailure_bchChecks_of_range (decide_toNat_ne_zero.mpr ht) hn (hn ▸ hr))

end Sys2Proof.Machine
end

/-! ## Binary polynomials

SUPPORT. The division of a binary polynomial by GEN (44_bch.md R230): the remainder's degree, and what is subtracted
is a multiple of GEN. -/

section
namespace Sys2Proof.Machine

/-- The product over the low `n` bits sees no other bit of the first factor. -/
theorem gf2MulBits_congr {n a a' : Nat} (b : Nat) (h : ∀ i < n, a.testBit i = a'.testBit i) :
    gf2MulBits n a b = gf2MulBits n a' b := by
  induction n with
  | zero => rfl
  | succ n ih => rw [gf2MulBits, gf2MulBits, ih fun i hi => h i (by omega), h n (by omega)]

/-- Bits of the first factor that are 0 add nothing to the product. -/
theorem gf2MulBits_add {a n : Nat} (b : Nat) (ha : a < 2 ^ n) (k : Nat) : gf2MulBits (n + k) a b = gf2MulBits n a b := by
  induction k with
  | zero => rfl
  | succ k ih =>
    have hbit : a.testBit (n + k) = false :=
      Nat.testBit_lt_two_pow (ha.trans_le (Nat.pow_le_pow_right (by decide) (Nat.le_add_right n k)))
    rw [← Nat.add_assoc, gf2MulBits, ih, hbit, if_neg Bool.false_ne_true, Nat.xor_zero]

theorem gf2MulBits_of_lt {a n : Nat} (b : Nat) (ha : a < 2 ^ n) : gf2MulBits n a b = gf2Mul a b := by
  have hself : a < 2 ^ (a.log2 + 1) := Nat.lt_log2_self
  rcases Nat.le_total n (a.log2 + 1) with hle | hle
  · obtain ⟨k, hk⟩ := Nat.exists_eq_add_of_le hle
    rw [gf2Mul, hk, gf2MulBits_add b ha]
  · obtain ⟨k, hk⟩ := Nat.exists_eq_add_of_le hle
    rw [hk, gf2MulBits_add b hself, gf2Mul]

/-- A polynomial whose coefficient of `x^n` is 0 has a lesser degree. -/
theorem lt_two_pow_of_testBit {v n : Nat} (hlt : v < 2 ^ (n + 1)) (hbit : v.testBit n = false) : v < 2 ^ n := by
  refine Nat.lt_pow_two_of_testBit v fun i hi => ?_
  obtain rfl | hne := eq_or_ne i n
  · exact hbit
  · exact Nat.testBit_lt_two_pow (hlt.trans_le (Nat.pow_le_pow_right (by decide) (by omega)))

/-- One step of the division, with a quotient term or without: the dividend's degree falls. -/
theorem polyMod_step_lt {g d n v : Nat} (hg : g < 2 ^ (d + 1)) (hd : g.testBit d = true) (hv : v < 2 ^ (d + (n + 1))) :
    (if v.testBit (d + n) then v ^^^ (g <<< n) else v) < 2 ^ (d + n) := by
  split
  · next hbit =>
    refine lt_two_pow_of_testBit (Nat.xor_lt_two_pow hv ?_) ?_
    · have := Nat.shiftLeft_lt (m := n) hg
      rwa [Nat.add_right_comm] at this
    · rw [Nat.testBit_xor, hbit, Nat.testBit_shiftLeft]
      simp [hd]
  · next hbit => exact lt_two_pow_of_testBit hv (by simpa using hbit)

/-- The remainder has a degree less than the divisor's (R230). -/
theorem polyMod_lt {g d n v : Nat} (hg : g < 2 ^ (d + 1)) (hd : g.testBit d = true) (hv : v < 2 ^ (d + n)) :
    polyMod g d n v < 2 ^ d := by
  induction n generalizing v with
  | zero => exact hv
  | succ n ih => exact ih (polyMod_step_lt hg hd hv)

/-- Dividend and remainder differ by a multiple of the divisor. -/
theorem exists_xor_polyMod (g d n v : Nat) : ∃ q < 2 ^ n, v ^^^ polyMod g d n v = gf2MulBits n q g := by
  induction n generalizing v with
  | zero => exact ⟨0, Nat.one_pos, Nat.xor_self v⟩
  | succ n ih =>
    rw [polyMod]
    split
    · obtain ⟨q, hq, h⟩ := ih (v ^^^ g <<< n)
      refine ⟨2 ^ n + q, by rw [Nat.pow_succ]; omega, ?_⟩
      have hlow : gf2MulBits n (2 ^ n + q) g = gf2MulBits n q g :=
        gf2MulBits_congr g fun i hi => Nat.testBit_two_pow_add_gt hi q
      have htop : (2 ^ n + q).testBit n = true := by
        rw [Nat.testBit_two_pow_add_eq, Nat.testBit_lt_two_pow hq, Bool.not_false]
      rw [gf2MulBits, hlow, htop, if_pos rfl, ← h, Nat.shiftLeft_eq, Nat.mul_comm,
        Nat.xor_right_comm v, Nat.xor_assoc (v ^^^ _), Nat.xor_self, Nat.xor_zero]
    · obtain ⟨q, hq, h⟩ := ih v
      exact ⟨q, hq.trans (Nat.pow_lt_pow_succ (by decide)), h.trans (gf2MulBits_add g hq 1).symm⟩

end Sys2Proof.Machine
end

/-! ## BCH_ENCODE

SUPPORT. The word of the systematic encoder: its first bits and its divisibility (44_bch.md R230, R231). -/

section
namespace Sys2Proof.Machine

/-- The first bits of a number written as bits are the number's high bits. -/
theorem take_bitsOf {n d v : Nat} : (bitsOf (n + d) v).take n = bitsOf n (v >>> d) := by
  rw [bitsOf, bitsOf, ← List.map_take, List.take_range, Nat.min_eq_left (Nat.le_add_right n d)]
  refine List.map_congr_left fun i hi => ?_
  have hi := List.mem_range.mp hi
  rw [Nat.testBit_shiftRight, show n + d - 1 - i = d + (n - 1 - i) by omega]

section
variable {g d : Nat} {m : Bits}

/-- The information as the high coefficients (R230) has a degree less than 63. -/
theorem num_mul_two_pow_lt (hm : m.length = 63 - d) : num m * 2 ^ d < 2 ^ (d + (63 - d)) := by
  have hlt := num_lt m
  rw [hm] at hlt
  rw [Nat.add_comm, Nat.pow_add]
  exact Nat.mul_lt_mul_of_pos_right hlt (Nat.two_pow_pos d)

/-- The remainder leaves the high coefficients alone, so the information comes first. -/
theorem take_bchenc (hg : g < 2 ^ (d + 1)) (hd : g.testBit d = true) (hm : m.length = 63 - d) (h63 : d ≤ 63) :
    (bchenc g d m).take (63 - d) = m := by
  have hrem := polyMod_lt hg hd (num_mul_two_pow_lt hm)
  have hhigh : (num m * 2 ^ d ^^^ polyMod g d (63 - d) (num m * 2 ^ d)) >>> d = num m := by
    rw [Nat.shiftRight_xor_distrib, Nat.shiftRight_eq_zero _ _ hrem, Nat.xor_zero, Nat.shiftRight_eq_div_pow,
      Nat.mul_div_cancel _ (Nat.two_pow_pos d)]
  rw [bchenc, Config.bchN, show 63 = 63 - d + d by omega, Nat.add_sub_cancel]
  rw [take_bitsOf, hhigh, ← hm, bitsOf_num]

/-- The codeword is divisible by GEN. -/
theorem exists_num_bchenc (hg : g < 2 ^ (d + 1)) (hd : g.testBit d = true) (hm : m.length = 63 - d) (h63 : d ≤ 63) :
    ∃ q, num (bchenc g d m) = gf2Mul q g := by
  obtain ⟨q, hq, hmul⟩ := exists_xor_polyMod g d (63 - d) (num m * 2 ^ d)
  have hv := num_mul_two_pow_lt hm
  have hrem := polyMod_lt hg hd hv
  rw [Nat.add_sub_cancel' h63] at hv
  have hword : num m * 2 ^ d ^^^ polyMod g d (63 - d) (num m * 2 ^ d) < 2 ^ 63 :=
    Nat.xor_lt_two_pow hv (hrem.trans_le (Nat.pow_le_pow_right (by decide) h63))
  exact ⟨q, by rw [bchenc, Config.bchN, num_bitsOf, Nat.mod_eq_of_lt hword, hmul, gf2MulBits_of_lt g hq]⟩

end

theorem exec_bchEncode {s : State} (hc : s.bch.genOk = true) (hn : s.arg1 = 63 - s.bch.degree)
    (hr : inBm s.arg0 s.arg1 ∧ inBm s.arg2 63) :
    exec .bchEncode s =
      .next (completed 0x40#8
        ⟨63#32, BitVec.ofNat 32 (63 - s.bch.degree), BitVec.ofNat 32 s.bch.degree, 0#32⟩
        { s with
          bm := bmWrite s.bm s.arg2 (bchenc s.bch.gen s.bch.degree (bmRead s.bm s.arg0 (63 - s.bch.degree))) }) :=
  runCommand_of_checks (firstFailure_bchChecks_of_ok hc hn hr)

/-- Settles O39: the word written is the encoder's. -/
theorem bchEncodeIsSystematicAndDivisible : Obligations.BchEncodeIsSystematicAndDivisible := by
  intro s hlow hhigh hn hsource hdest
  have hzero : s.bch.gen ≠ 0 := by omega
  have hg : s.bch.gen < 2 ^ (s.bch.degree + 1) := Nat.lt_log2_self
  have hd : s.bch.gen.testBit s.bch.degree = true := Nat.testBit_log2 hzero
  have h63 : s.bch.degree ≤ 63 := ((Nat.log2_lt hzero).mpr hhigh).le
  have hexec := exec_bchEncode (Bch.genOk_iff.mpr ⟨hlow, hhigh⟩) hn ⟨hsource, hdest⟩
  have hm : (bmRead s.bm s.arg0 (63 - s.bch.degree)).length = 63 - s.bch.degree := length_bmRead ..
  have hlen := length_bchenc s.bch.gen s.bch.degree (bmRead s.bm s.arg0 (63 - s.bch.degree))
  have htake := take_bchenc hg hd hm h63
  obtain ⟨q, hq⟩ := exists_num_bchenc hg hd hm h63
  generalize bchenc _ _ _ = c at hexec hlen htake hq
  have hread := bmRead_bmWrite_self s.bm s.arg2 c
  have hframe := onlyBitsWritten_bmWrite s.bm s.arg2 c
  rw [hlen] at hread hframe
  have hfirst := take_drop_bmRead (bmWrite s.bm s.arg2 c) s.arg2 (n := 63) (i := 0) (k := 63 - s.bch.degree) (by omega)
  rw [List.drop_zero, hread, htake, Nat.add_zero] at hfirst
  exact ⟨_, q, hexec, hfirst.symm, (congrArg num hread).trans hq, hframe⟩

end Sys2Proof.Machine
end

/-! ## BCH decisions

SUPPORT. All that `bchdec` can answer (44_bch.md R227), and what flipping the elements at error positions does to a
word. -/

section
namespace Sys2Proof.Machine

/-! ### Flipped elements -/

theorem getD_flipAt {z : Bits} {p : Nat} (hp : p < z.length) (i : Nat) :
    (flipAt z p).getD i false = (z.getD i false ^^ decide (i = p)) := by
  rw [flipAt, List.getD_eq_getElem?_getD, List.getD_eq_getElem?_getD, List.getElem?_modify]
  obtain rfl | hne := eq_or_ne i p
  · simp [hp]
  · simp [hne, hne.symm]

theorem flipAt_flipAt (z : Bits) (p : Nat) : flipAt (flipAt z p) p = z := by
  have hid : (fun b => !b) ∘ (fun b => !b) = id := funext Bool.not_not
  rw [flipAt, flipAt, List.modify_modify_eq, hid, List.modify_id]

/-- Flipping an element at which two words agree makes them differ in one more. -/
theorem hd_flipAt {w r : Bits} {p : Nat} (hlen : w.length = r.length) (hp : p < r.length)
    (heq : w.getD p false = r.getD p false) : hd (flipAt w p) r = hd w r + 1 := by
  induction w generalizing r p with
  | nil => simp [← hlen] at hp
  | cons x w ih =>
    obtain _ | ⟨y, r⟩ := r
    · exact absurd hlen nofun
    · cases p with
      | zero =>
        obtain rfl : x = y := heq
        show hd ((!x) :: w) (x :: r) = _
        rw [hd_cons, hd_cons]
        cases x <;> simp [Nat.add_comm]
      | succ p =>
        show hd (x :: flipAt w p) (y :: r) = _
        rw [hd_cons, hd_cons, ih (Nat.succ.inj hlen) (Nat.lt_of_succ_lt_succ hp) heq, Nat.add_assoc]

theorem flipPositions_concat (r : Bits) (ps : List Nat) (p : Nat) :
    flipPositions r (ps ++ [p]) = flipAt (flipPositions r ps) (62 - p) := List.foldl_append ..

/-- An element of no listed position is left alone. -/
theorem getD_flipPositions {r : Bits} {ps : List Nat} {i : Nat} (hr : r.length = 63)
    (hi : ∀ p ∈ ps, i ≠ 62 - p) : (flipPositions r ps).getD i false = r.getD i false := by
  induction ps using List.reverseRecOn with
  | nil => rfl
  | append_singleton ps p ih =>
    obtain ⟨hps, hp⟩ := forall_mem_concat.mp hi
    have hlen : 62 - p < (flipPositions r ps).length := by
      rw [length_flipPositions]
      omega
    rw [flipPositions_concat, getD_flipAt hlen, ih hps, decide_eq_false hp, Bool.xor_false]

/-- As many elements differ as positions are listed. -/
theorem hd_flipPositions {r : Bits} {ps : List Nat} (hr : r.length = 63) (hnodup : ps.Nodup)
    (hps : ∀ p ∈ ps, p < 63) :
    hd (flipPositions r ps) r = ps.length := by
  induction ps using List.reverseRecOn with
  | nil => exact hd_self r
  | append_singleton ps p ih =>
    obtain ⟨hlt, hp⟩ := forall_mem_concat.mp hps
    obtain ⟨hnodup, -, hnew⟩ := List.nodup_append.mp hnodup
    have heq : (flipPositions r ps).getD (62 - p) false = r.getD (62 - p) false := by
      refine getD_flipPositions hr fun q hq => ?_
      have hne : q ≠ p := hnew q hq p (List.mem_singleton_self p)
      have := hlt q hq
      omega
    rw [flipPositions_concat, hd_flipAt (length_flipPositions r ps) (by omega) heq, ih hnodup hlt, List.length_append,
      List.length_singleton]

/-! ### The decision -/

theorem allZero_syndromes_iff {t : Nat} {r : Bits} : allZero (syndromes t r) = true ↔ noSyndrome t r := by
  simp only [allZero, syndromes, List.all_map, List.all_eq_true, List.mem_range, Function.comp_apply, beq_iff_eq,
    noSyndrome]
  constructor
  · intro h j hpos hle
    rw [← Nat.sub_add_cancel hpos]
    exact h (j - 1) (by omega)
  · exact fun h i hi => h (i + 1) (by omega) (by omega)

theorem nodup_chien (lam : List GF) : (chien lam).Nodup := List.nodup_range.filter _

theorem lt_of_mem_chien {lam : List GF} {p : Nat} (h : p ∈ chien lam) : p < 63 :=
  List.mem_range.mp (List.mem_of_mem_filter h)

/-- All that `bchdec` can answer (R227). -/
inductive BchDecision (r : Bits) (t : Nat) : BchDecoded → Prop
  | passed (hr : noSyndrome t r) : BchDecision r t ⟨.passed, r, 0, 0⟩
  | failed (hr : ¬ noSyndrome t r) (len : Nat) : BchDecision r t ⟨.failed, r, 0, len⟩
  | corrected (hr : ¬ noSyndrome t r) (q : Berlekamp) (hq : berlekampMassey (syndromes t r) = q) (hlen : q.len ≤ t)
      (hps : (chien q.lam).length = q.len) (hc : noSyndrome t (flipPositions r (chien q.lam))) :
      BchDecision r t ⟨.corrected, flipPositions r (chien q.lam), q.len, q.len⟩

theorem bchDecision_bchdec (r : Bits) (t : Nat) : BchDecision r t (bchdec r t) := by
  unfold bchdec
  simp only
  split
  · next hr => exact .passed (allZero_syndromes_iff.mp hr)
  · next hnonzero =>
    have hr := allZero_syndromes_iff.not.mp hnonzero
    split
    · exact .failed hr _
    · next hlen =>
      split
      · exact .failed hr _
      · next hps =>
        split
        · next hc =>
          exact .corrected hr _ rfl (Nat.not_lt.mp hlen) (not_not.mp hps) (allZero_syndromes_iff.mp hc)
        · exact .failed hr _

/-- `bchdec` corrects when the locator has as many roots as its length and they lead to a word of vanishing syndromes. -/
theorem bchdec_of_locator {r : Bits} {t : Nat} {q : Berlekamp} (hr : ¬ noSyndrome t r)
    (hq : berlekampMassey (syndromes t r) = q) (hlen : q.len ≤ t) (hps : (chien q.lam).length = q.len)
    (hc : noSyndrome t (flipPositions r (chien q.lam))) :
    bchdec r t = ⟨.corrected, flipPositions r (chien q.lam), q.len, q.len⟩ := by
  rw [← allZero_syndromes_iff] at hr hc
  simp only [bchdec, hq, if_neg hr, if_neg (Nat.not_lt.mpr hlen), hps, ne_eq, not_true_eq_false, if_false, if_pos hc]

/-! ### The command -/

theorem exec_bchDecode {s : State} (ht : s.bch.t ≠ 0#4) (hn : s.arg1 = 63) (hsource : inBm s.arg0 63)
    (hdest : inBm s.arg2 63) {d : BchDecoded} (hd : bchdec (bmRead s.bm s.arg0 63) s.bch.t.toNat = d) :
    exec .bchDecode s =
      .next (completed 0x41#8 ⟨d.outcome.code, BitVec.ofNat 32 d.count, BitVec.ofNat 32 d.len, 0#32⟩
        { s with bm := bmWrite s.bm s.arg2 d.word, ccnt := saturated s.ccnt d.count }) := by
  subst hd
  exact runCommand_of_checks (firstFailure_bchChecks_of_ok (decide_toNat_ne_zero.mpr ht) hn ⟨hn ▸ hsource, hdest⟩)

/-- Settles O40: each outcome is one way through the decision. -/
theorem bchDecodeOutcomes : Obligations.BchDecodeOutcomes := by
  intro s ht hn hsource hdest
  have hr : (bmRead s.bm s.arg0 63).length = 63 := length_bmRead ..
  have hexec := exec_bchDecode ht hn hsource hdest rfl
  have hword := length_bchdec (bmRead s.bm s.arg0 63) s.bch.t.toNat
  have hdecision := bchDecision_bchdec (bmRead s.bm s.arg0 63) s.bch.t.toNat
  have hread := bmRead_bmWrite_self s.bm s.arg2 (bchdec (bmRead s.bm s.arg0 63) s.bch.t.toNat).word
  have hframe := onlyBitsWritten_bmWrite s.bm s.arg2 (bchdec (bmRead s.bm s.arg0 63) s.bch.t.toNat).word
  rw [hword, hr] at hread hframe
  refine ⟨_, hexec, hread, hframe, ?_⟩
  rw [hread]
  generalize bchdec _ _ = d at hdecision
  cases hdecision with
  | passed hzero => exact .inl ⟨rfl, rfl, rfl, rfl, rfl, hzero⟩
  | failed hnonzero => exact .inr (.inr ⟨rfl, rfl, rfl, rfl, hnonzero⟩)
  | corrected hnonzero q hq hlen hps hzero =>
    have hdist := hd_flipPositions hr (nodup_chien q.lam) fun p => lt_of_mem_chien
    have hpos : q.len ≠ 0 := fun h0 => hnonzero <| by
      rwa [List.length_eq_zero_iff.mp (hps.trans h0)] at hzero
    exact .inr (.inl ⟨rfl, rfl, Nat.pos_of_ne_zero hpos, hlen, rfl, hdist.trans hps, hzero, hnonzero⟩)

end Sys2Proof.Machine
end

/-! ## The field of 64 elements

SUPPORT. The multiplication of GF(2^6) is linear and respects α, so the powers of α multiply by adding their exponents
modulo 63 (44_bch.md R223). -/

section
namespace Sys2Proof.Machine

theorem gfTimesAlpha_zero : gfTimesAlpha 0#6 = 0#6 := rfl

theorem gfTimesAlpha_xor (a b : GF) : gfTimesAlpha (a ^^^ b) = gfTimesAlpha a ^^^ gfTimesAlpha b := by
  rw [gfTimesAlpha, BitVec.shiftLeft_xor_distrib, BitVec.getLsbD_xor, gfTimesAlpha, gfTimesAlpha]
  cases a.getLsbD 5 <;> cases b.getLsbD 5 <;> simp [BitVec.xor_assoc, BitVec.xor_comm 3#6]

/-- The field polynomial: `α^6 = α + 1` (R223). -/
theorem gfTimesAlpha_six : ∀ a : GF, gfTimesAlpha^[6] a = gfTimesAlpha a ^^^ a := by decide

/-- A term of a product: `a` where the factor's bit is set. -/
def gfTerm (b : Bool) (a : GF) : GF := if b then a else 0#6

theorem gfTimesAlpha_gfTerm (b : Bool) (a : GF) : gfTimesAlpha (gfTerm b a) = gfTerm b (gfTimesAlpha a) := by
  cases b with
  | false => exact gfTimesAlpha_zero
  | true => rfl

theorem gfTerm_xor (b c : Bool) (a : GF) : gfTerm (b ^^ c) a = gfTerm b a ^^^ gfTerm c a := by
  cases b <;> cases c <;> simp [gfTerm]

theorem gfTerm_xor_right (b : Bool) (a c : GF) : gfTerm b (a ^^^ c) = gfTerm b a ^^^ gfTerm b c := by
  cases b <;> simp [gfTerm]

theorem gfmul_eq_foldl (a b : GF) :
    gfmul a b = [5, 4, 3, 2, 1, 0].foldl (fun acc i => gfTimesAlpha acc ^^^ gfTerm (b.getLsbD i) a) 0#6 := rfl

/-- `gfmul` with its terms written out. -/
theorem gfmul_eq (a b : GF) :
    gfmul a b = gfTerm (b.getLsbD 5) (gfTimesAlpha^[5] a) ^^^ gfTerm (b.getLsbD 4) (gfTimesAlpha^[4] a)
      ^^^ gfTerm (b.getLsbD 3) (gfTimesAlpha^[3] a) ^^^ gfTerm (b.getLsbD 2) (gfTimesAlpha^[2] a)
      ^^^ gfTerm (b.getLsbD 1) (gfTimesAlpha a) ^^^ gfTerm (b.getLsbD 0) a := by
  simp only [gfmul_eq_foldl, List.foldl_cons, List.foldl_nil, gfTimesAlpha_zero, BitVec.zero_xor, gfTimesAlpha_xor,
    gfTimesAlpha_gfTerm, Function.iterate_succ_apply', Function.iterate_zero_apply]

/-- The coefficients of `α·b`. -/
theorem getLsbD_gfTimesAlpha : ∀ b : GF,
    (gfTimesAlpha b).getLsbD 0 = b.getLsbD 5 ∧ (gfTimesAlpha b).getLsbD 1 = (b.getLsbD 0 ^^ b.getLsbD 5)
    ∧ (gfTimesAlpha b).getLsbD 2 = b.getLsbD 1 ∧ (gfTimesAlpha b).getLsbD 3 = b.getLsbD 2
    ∧ (gfTimesAlpha b).getLsbD 4 = b.getLsbD 3 ∧ (gfTimesAlpha b).getLsbD 5 = b.getLsbD 4 := by decide

theorem gfmul_zero (a : GF) : gfmul a 0#6 = 0#6 := by
  simp only [gfmul_eq, gfTerm, BitVec.getLsbD_zero, Bool.false_eq_true, if_false, BitVec.xor_self]

theorem gfmul_one (a : GF) : gfmul a 1#6 = a := by
  simp [gfmul_eq, gfTerm]

theorem gfmul_gfTimesAlpha (a b : GF) : gfmul a (gfTimesAlpha b) = gfTimesAlpha (gfmul a b) := by
  obtain ⟨h0, h1, h2, h3, h4, h5⟩ := getLsbD_gfTimesAlpha b
  have hsix := gfTimesAlpha_six a
  rw [gfmul_eq, gfmul_eq, h0, h1, h2, h3, h4, h5]
  simp only [gfTimesAlpha_xor, gfTimesAlpha_gfTerm, ← Function.iterate_succ_apply' gfTimesAlpha, hsix, gfTerm_xor,
    gfTerm_xor_right]
  simp only [Function.iterate_succ_apply', Function.iterate_zero_apply]
  ac_rfl

/-! ### Powers of α -/

theorem alphaPow_mod (k : Nat) : alphaPow (k % 63) = alphaPow k := by rw [alphaPow, Nat.mod_mod, alphaPow]

theorem alphaPow_succ (k : Nat) : alphaPow (k + 1) = gfTimesAlpha (alphaPow k) := by
  obtain hwrap | hne := eq_or_ne (k % 63) 62
  · have hperiod : alphaPow 0 = gfTimesAlpha (alphaPow 62) := by decide +kernel
    rw [← alphaPow_mod (k + 1), ← alphaPow_mod k, hwrap, show (k + 1) % 63 = 0 by omega, hperiod]
  · rw [alphaPow, alphaPow, show (k + 1) % 63 = k % 63 + 1 by omega, List.range_succ, List.foldl_append]
    rfl

theorem gfmul_alphaPow (j k : Nat) : gfmul (alphaPow j) (alphaPow k) = alphaPow (j + k) := by
  induction k with
  | zero => exact gfmul_one _
  | succ k ih => rw [alphaPow_succ, gfmul_gfTimesAlpha, ih, ← Nat.add_assoc, alphaPow_succ]

theorem alphaPow_ne_zero (k : Nat) : alphaPow k ≠ 0#6 := by
  have h : ∀ k < 63, alphaPow k ≠ 0#6 := by decide
  exact alphaPow_mod k ▸ h (k % 63) (Nat.mod_lt _ (by decide))

/-- α has order 63 (R223). -/
theorem alphaPow_eq_one_iff {k : Nat} : alphaPow k = 1#6 ↔ k % 63 = 0 := by
  have h : ∀ k < 63, alphaPow k = 1#6 ↔ k = 0 := by decide
  exact alphaPow_mod k ▸ h (k % 63) (Nat.mod_lt _ (by decide))

end Sys2Proof.Machine
end

/-! ## Single errors

SUPPORT. The syndromes of one flipped bit are a geometric sequence, so the iteration of 44_bch.md R225 stops at a locator
of length 1, whose one root is the bit's position (R226, R229). -/

section
namespace Sys2Proof.Machine

/-! ### The syndromes -/

/-- The sum of the columns `f k` of a word's first `n` elements (R224). -/
def columnSum (f : Nat → GF) (n : Nat) (r : Bits) : GF :=
  (List.range n).foldl (fun acc k => if r.getD k false then acc ^^^ f k else acc) 0#6

theorem syndrome_eq_columnSum (r : Bits) (j : Nat) :
    syndrome r j = columnSum (fun i => alphaPow (j * (62 - i))) 63 r := rfl

theorem columnSum_succ (f : Nat → GF) (n : Nat) (r : Bits) :
    columnSum f (n + 1) r = columnSum f n r ^^^ gfTerm (r.getD n false) (f n) := by
  rw [columnSum, List.range_succ, List.foldl_append, ← columnSum, List.foldl_cons, List.foldl_nil, gfTerm]
  split
  · rfl
  · exact BitVec.xor_zero.symm

theorem columnSum_flipAt {c : Bits} {i : Nat} (hi : i < c.length) (f : Nat → GF) (n : Nat) :
    columnSum f n (flipAt c i) = columnSum f n c ^^^ gfTerm (decide (i < n)) (f i) := by
  induction n with
  | zero => exact BitVec.xor_zero.symm
  | succ n ih =>
    have hterm : gfTerm (decide (i < n + 1)) (f i)
        = gfTerm (decide (i < n)) (f i) ^^^ gfTerm (decide (n = i)) (f n) := by
      obtain rfl | hne := eq_or_ne n i
      · simp [gfTerm]
      · have hlt : i < n + 1 ↔ i < n := by omega
        simp [gfTerm, hne, hlt]
    rw [columnSum_succ, columnSum_succ, ih, getD_flipAt hi, gfTerm_xor, hterm]
    ac_rfl

/-- Flipping element `i` adds the column of `i` to the syndromes (R224). -/
theorem syndrome_flipAt {c : Bits} {i : Nat} (hc : c.length = 63) (hi : i < 63) (j : Nat) :
    syndrome (flipAt c i) j = syndrome c j ^^^ alphaPow (j * (62 - i)) := by
  rw [syndrome_eq_columnSum, syndrome_eq_columnSum, columnSum_flipAt (hc ▸ hi), decide_eq_true hi, gfTerm, if_pos rfl]

theorem length_syndromes (t : Nat) (r : Bits) : (syndromes t r).length = 2 * t := by simp [syndromes]

theorem coeff_syndromes {t n : Nat} (r : Bits) (hn : n < 2 * t) : coeff (syndromes t r) n = syndrome r (n + 1) := by
  simp [coeff, syndromes, hn]

/-- One flipped bit of a word of vanishing syndromes leaves the powers of its `α^(62-i)`. -/
theorem coeff_syndromes_flipAt {c : Bits} {t i n : Nat} (hc : c.length = 63) (hi : i < 63) (hzero : noSyndrome t c)
    (hn : n < 2 * t) : coeff (syndromes t (flipAt c i)) n = alphaPow ((n + 1) * (62 - i)) := by
  rw [coeff_syndromes _ hn, syndrome_flipAt hc hi, hzero (n + 1) (by omega) (by omega), BitVec.zero_xor]

theorem not_noSyndrome_flipAt {c : Bits} {t i : Nat} (hc : c.length = 63) (ht : 1 ≤ t) (hi : i < 63)
    (hzero : noSyndrome t c) : ¬ noSyndrome t (flipAt c i) := fun h => by
  have hfirst := h 1 le_rfl (by omega)
  rw [syndrome_flipAt hc hi, hzero 1 le_rfl (by omega), BitVec.zero_xor] at hfirst
  exact alphaPow_ne_zero _ hfirst

/-! ### The locator -/

/-- The iteration with the locator `1 + x·X` of a single error. -/
def Berlekamp.single (x : GF) (gap : Nat) : Berlekamp := ⟨[1#6, x], [1#6], 1, gap, x⟩

theorem Berlekamp.delta_start (ss : List GF) (n : Nat) : Berlekamp.start.delta ss n = coeff ss n := rfl

theorem Berlekamp.delta_single (ss : List GF) (x : GF) (gap n : Nat) :
    (Berlekamp.single x gap).delta ss (n + 1) = coeff ss (n + 1) ^^^ gfmul x (coeff ss n) := rfl

theorem gfinv_one : gfinv 1#6 = 1#6 := by decide

/-- The first syndrome is the first discrepancy. -/
theorem Berlekamp.step_start {ss : List GF} {x : GF} (h0 : coeff ss 0 = x) (hx : x ≠ 0#6) :
    Berlekamp.start.step ss 0 = .single x 1 := by
  have hlam : polyAddScaled [1#6] [1#6] x 1 = [1#6, x] := by
    simp [polyAddScaled, coeff, List.range_succ, gfmul_one]
  simp only [Berlekamp.step, Berlekamp.delta_start, h0, if_neg hx]
  simp only [Berlekamp.start, gfinv_one, gfmul_one, hlam]
  rfl

/-- The next syndrome of a geometric sequence has no discrepancy. -/
theorem Berlekamp.step_single {ss : List GF} {x : GF} {n : Nat} (gap : Nat)
    (hnext : coeff ss (n + 1) = gfmul x (coeff ss n)) :
    Berlekamp.step ss (.single x gap) (n + 1) = .single x (gap + 1) := by
  have hd : (Berlekamp.single x gap).delta ss (n + 1) = 0#6 := by
    rw [Berlekamp.delta_single, hnext, BitVec.xor_self]
  simp only [Berlekamp.step, hd, if_true]
  rfl

theorem Berlekamp.foldl_step_geometric {ss : List GF} {x : GF} (h0 : coeff ss 0 = x) (hx : x ≠ 0#6) {n : Nat}
    (hnext : ∀ k < n, coeff ss (k + 1) = gfmul x (coeff ss k)) :
    (List.range (n + 1)).foldl (Berlekamp.step ss) Berlekamp.start = .single x (n + 1) := by
  induction n with
  | zero => exact Berlekamp.step_start h0 hx
  | succ n ih =>
    rw [List.range_succ, List.foldl_append, ih fun k hk => hnext k (by omega)]
    exact Berlekamp.step_single _ (hnext n (by omega))

/-- A geometric sequence of syndromes has the locator `1 + x·X` (R225). -/
theorem berlekampMassey_geometric {ss : List GF} {x : GF} {n : Nat} (hlen : ss.length = n + 1) (h0 : coeff ss 0 = x)
    (hx : x ≠ 0#6) (hnext : ∀ k < n, coeff ss (k + 1) = gfmul x (coeff ss k)) :
    berlekampMassey ss = .single x (n + 1) := by
  rw [berlekampMassey, hlen, Berlekamp.foldl_step_geometric h0 hx hnext]
  rfl

theorem berlekampMassey_flipAt {c : Bits} {t i : Nat} (hc : c.length = 63) (ht : 1 ≤ t) (hi : i < 63)
    (hzero : noSyndrome t c) :
    berlekampMassey (syndromes t (flipAt c i)) = .single (alphaPow (62 - i)) (2 * t) := by
  obtain ⟨n, hn⟩ : ∃ n, 2 * t = n + 1 := ⟨2 * t - 1, by omega⟩
  have hcoeff : ∀ k < n + 1, coeff (syndromes t (flipAt c i)) k = alphaPow ((k + 1) * (62 - i)) := fun k hk =>
    coeff_syndromes_flipAt hc hi hzero (hn ▸ hk)
  rw [hn]
  refine berlekampMassey_geometric ((length_syndromes ..).trans hn) ?_ (alphaPow_ne_zero _) fun k hk => ?_
  · rw [hcoeff 0 (Nat.succ_pos n), Nat.zero_add, Nat.one_mul]
  · rw [hcoeff k (by omega), hcoeff (k + 1) (by omega), gfmul_alphaPow, Nat.succ_mul, Nat.add_comm]

/-! ### The position -/

/-- The root of `1 + α^p·X` is `α^(-p)` (R226). -/
theorem polyEval_single_eq_zero_iff {p q : Nat} (hp : p < 63) (hq : q < 63) :
    polyEval [1#6, alphaPow p] (alphaPow (63 - q)) = 0#6 ↔ q = p := by
  have heval : polyEval [1#6, alphaPow p] (alphaPow (63 - q)) = 1#6 ^^^ alphaPow (63 - q + p) := by
    simp only [polyEval, List.foldr_cons, List.foldr_nil, gfmul_zero, BitVec.xor_zero, gfmul_alphaPow]
  rw [heval, BitVec.xor_eq_zero_iff, eq_comm, alphaPow_eq_one_iff]
  omega

theorem chien_single {p : Nat} (hp : p < 63) : chien [1#6, alphaPow p] = [p] := by
  have hroot : chien [1#6, alphaPow p] = (List.range 63).filter (· == p) := by
    refine List.filter_congr fun q hq => ?_
    rw [Bool.eq_iff_iff, beq_iff_eq, beq_iff_eq, polyEval_single_eq_zero_iff hp (List.mem_range.mp hq)]
  rw [hroot, List.filter_beq, List.count_eq_one_of_mem List.nodup_range (List.mem_range.mpr hp), List.replicate_one]

/-! ### The decision -/

theorem bchdec_flipAt {c : Bits} {t i : Nat} (hc : c.length = 63) (ht : 1 ≤ t) (hi : i < 63) (hzero : noSyndrome t c) :
    bchdec (flipAt c i) t = ⟨.corrected, c, 1, 1⟩ := by
  have hps : chien (Berlekamp.single (alphaPow (62 - i)) (2 * t)).lam = [62 - i] := chien_single (by omega)
  have hflip : flipPositions (flipAt c i) [62 - i] = c := by
    show flipAt (flipAt c i) (62 - (62 - i)) = c
    rw [Nat.sub_sub_self (by omega), flipAt_flipAt]
  have hdec := bchdec_of_locator (not_noSyndrome_flipAt hc ht hi hzero) (berlekampMassey_flipAt hc ht hi hzero) ht
    (congrArg List.length hps) (by rwa [hps, hflip])
  rw [hps, hflip] at hdec
  exact hdec

/-- Settles O41: the locator of a single error has its position as the one root. -/
theorem singleErrorIsCorrected : Obligations.SingleErrorIsCorrected := by
  refine ⟨fun c t i hc ht _ hi hzero => bchdec_flipAt hc ht hi hzero,
    fun s c i ht hn hsource hdest hc hi hzero hreceived => ?_⟩
  have hpos : 1 ≤ s.bch.t.toNat := Nat.pos_of_ne_zero (of_decide_eq_true (decide_toNat_ne_zero.mpr ht))
  have hdec := bchdec_flipAt hc hpos hi hzero
  rw [← hreceived] at hdec
  have hread := bmRead_bmWrite_self s.bm s.arg2 c
  have hframe := onlyBitsWritten_bmWrite s.bm s.arg2 c
  rw [hc] at hread hframe
  exact ⟨_, exec_bchDecode ht hn hsource hdest hdec, hread, hframe⟩

end Sys2Proof.Machine
end

/-! ## CRC checks

SUPPORT. The checks that CRC_GEN and CRC_VERIFY share, in plain numbers (45_crc.md R251, R254). -/

section
namespace Sys2Proof.Machine

/-- Checks that all report one error report it as soon as one of them fails, whichever it is. -/
theorem firstFailure_of_sameError {cs : List (Bool × CmdError)} {e : CmdError} (he : ∀ c ∈ cs, c.2 = e)
    (hfail : ¬ ∀ c ∈ cs, c.1 = true) : firstFailure cs = some e := by
  cases hcs : firstFailure cs with
  | none => exact absurd (firstFailure_eq_none.mp hcs) hfail
  | some e' =>
    obtain ⟨before, after, rfl, -⟩ := firstFailure_eq_some.mp hcs
    exact congrArg some (he (false, e') (by simp))

/-- R251 in plain numbers. -/
theorem Crc.configOk_iff {c : Crc} : c.configOk = true ↔ 1 ≤ c.width ∧ c.width ≤ 32 ∧ c.trial.toNat ≤ 2 := by
  simp only [Crc.configOk, Bool.and_eq_true, decide_eq_true_eq, and_assoc]
  rfl

theorem disjointRanges_iff {a n f w : Nat} : disjointRanges a n f w = true ↔ a + n ≤ f ∨ f + w ≤ a := by
  simp only [disjointRanges, Bool.or_eq_true, decide_eq_true_eq]

section
variable {s : State}

theorem firstFailure_crcChecks_of_config (hc : ¬ (1 ≤ s.crc.width ∧ s.crc.width ≤ 32 ∧ s.crc.trial.toNat ≤ 2)) :
    firstFailure (crcChecks s) = some .config := by
  rw [crcChecks, Bool.eq_false_iff.mpr (Crc.configOk_iff.not.mpr hc), firstFailure_cons_false]

theorem firstFailure_crcChecks_of_length (hc : s.crc.configOk = true) (hn : 1024 < s.arg1) :
    firstFailure (crcChecks s) = some .length := by
  rw [crcChecks, hc, firstFailure_cons_true,
    decide_eq_false (show ¬ s.arg1 ≤ Config.crcMaxBits from Nat.not_le.mpr hn), firstFailure_cons_false]

theorem legalCrc_iff : legalCrc s ↔ s.crc.configOk = true ∧ s.arg1 ≤ Config.crcMaxBits ∧ validRange s.arg0 s.arg1 = true
    ∧ validRange s.arg2 s.crc.width = true ∧ disjointRanges s.arg0 s.arg1 s.arg2 s.crc.width = true := by
  simp only [legalCrc, Crc.configOk_iff, validRange_iff_inBm, disjointRanges_iff, and_assoc]
  rfl

/-- The three checks of the ranges come last and report RANGE, so it does not matter which of them fails. -/
theorem firstFailure_crcChecks_of_range (hc : s.crc.configOk = true) (hn : s.arg1 ≤ 1024) (hr : ¬ legalCrc s) :
    firstFailure (crcChecks s) = some .range := by
  rw [crcChecks, hc, firstFailure_cons_true, decide_eq_true (show s.arg1 ≤ Config.crcMaxBits from hn),
    firstFailure_cons_true]
  refine firstFailure_of_sameError (by simp) fun hall => hr (legalCrc_iff.mpr ⟨hc, hn, ?_⟩)
  simpa using hall

theorem firstFailure_crcChecks_of_legal (h : legalCrc s) : firstFailure (crcChecks s) = none := by
  rw [legalCrc_iff] at h
  simpa [firstFailure_eq_none, crcChecks] using h

theorem exec_crc_of_failure {i : Instr} {e : CmdError} (hi : i = .crcGen ∨ i = .crcVerify)
    (h : firstFailure (crcChecks s) = some e) : exec i s = .next (turnedAway i.opcode e.code s) := by
  obtain rfl | rfl := hi
  · exact runCommand_of_failure h
  · exact runCommand_of_failure h

end

/-- Settles O16: each clause names the first of the shared checks to fail. -/
theorem crcErrorsInOrder : Obligations.CrcErrorsInOrder := by
  intro s i hi
  refine ⟨fun hc => ?_, fun hpos hmax htrial => ?_⟩
  · exact exec_crc_of_failure hi (firstFailure_crcChecks_of_config hc)
  · have hc := Crc.configOk_iff.mpr ⟨hpos, hmax, htrial⟩
    exact ⟨fun hn => exec_crc_of_failure hi (firstFailure_crcChecks_of_length hc hn),
      fun hn hr => exec_crc_of_failure hi (firstFailure_crcChecks_of_range hc hn hr)⟩

end Sys2Proof.Machine
end

/-! ## The XOR-shift register

SUPPORT. The register of 45_crc.md R250 divides by the generator (R252) and is linear over GF(2) (R260). -/

section
namespace Sys2Proof.Machine

/-! ### Shifts and sums without carry -/

theorem xor_mul_two_pow (a b n : Nat) : (a ^^^ b) * 2 ^ n = a * 2 ^ n ^^^ b * 2 ^ n := by
  simp only [← Nat.shiftLeft_eq, Nat.shiftLeft_xor_distrib]

theorem two_mul_xor (a b : Nat) : 2 * (a ^^^ b) = 2 * a ^^^ 2 * b := by
  simpa only [Nat.pow_one, Nat.mul_comm] using xor_mul_two_pow a b 1

theorem mul_two_pow_add_eq_xor (a : Nat) {v n : Nat} (hv : v < 2 ^ n) : a * 2 ^ n + v = a * 2 ^ n ^^^ v := by
  refine Nat.eq_of_testBit_eq fun j => ?_
  rw [Nat.mul_comm, Nat.testBit_two_pow_mul_add _ hv, Nat.testBit_xor, Nat.testBit_two_pow_mul]
  by_cases hj : j < n
  · simp [hj, Nat.not_le.mpr hj]
  · have hhigh : v.testBit j = false :=
      Nat.testBit_lt_two_pow (hv.trans_le (Nat.pow_le_pow_right (by decide) (Nat.not_lt.mp hj)))
    simp [hj, Nat.not_lt.mp hj, hhigh]

theorem toNat_xor_mul (b c : Bool) (v : Nat) : (b ^^ c).toNat * v = b.toNat * v ^^^ c.toNat * v := by
  cases b <;> cases c <;> simp

theorem toNat_mul_xor (b : Bool) (u v : Nat) : b.toNat * (u ^^^ v) = b.toNat * u ^^^ b.toNat * v := by
  cases b <;> simp

theorem num_concat (b : Bits) (x : Bool) : num (b ++ [x]) = 2 * num b ^^^ x.toNat := by
  have hlast : num [x] < 2 ^ 1 := num_lt [x]
  rw [num_append, List.length_singleton, mul_two_pow_add_eq_xor _ hlast, Nat.pow_one, Nat.mul_comm]
  cases x <;> rfl

theorem gf2MulBits_two_mul_add (n q g : Nat) (b : Bool) :
    gf2MulBits (n + 1) (2 * q + b.toNat) g = 2 * gf2MulBits n q g ^^^ b.toNat * g := by
  induction n with
  | zero => cases b <;> simp [gf2MulBits]
  | succ n ih =>
    have hhalf : (2 * q + b.toNat) / 2 = q := by have := b.toNat_lt; omega
    rw [gf2MulBits, ih, Nat.testBit_succ, hhalf, gf2MulBits, two_mul_xor, Nat.xor_right_comm]
    cases q.testBit n with
    | false => rfl
    | true => simp only [if_true, Nat.pow_succ]; ring_nf

/-- Horner's rule for the product: one more coefficient of the first factor, the lowest. -/
theorem gf2Mul_two_mul_add (q g : Nat) (b : Bool) :
    gf2Mul (2 * q + b.toNat) g = 2 * gf2Mul q g ^^^ b.toNat * g := by
  have hq : q < 2 ^ (q.log2 + 1) := Nat.lt_log2_self
  have hlt : 2 * q + b.toNat < 2 ^ (q.log2 + 1 + 1) := by
    have := b.toNat_lt
    rw [Nat.pow_succ]
    omega
  rw [← gf2MulBits_of_lt g hlt, gf2MulBits_two_mul_add, gf2MulBits_of_lt g hq]

/-! ### One bit -/

/-- The feedback bit of R250. -/
def crcFeedback (w r : Nat) (x : Bool) : Bool := r.testBit (w - 1) ^^ x

theorem crcShift_eq (w p r : Nat) (x : Bool) :
    crcShift w p r x = 2 * r % 2 ^ w ^^^ (crcFeedback w r x).toNat * p := by
  unfold crcShift
  rw [← crcFeedback]
  cases crcFeedback w r x <;> simp

theorem crcShift_lt {w p : Nat} (hp : p < 2 ^ w) (r : Nat) (x : Bool) : crcShift w p r x < 2 ^ w := by
  rw [crcShift_eq]
  refine Nat.xor_lt_two_pow (Nat.mod_lt _ (Nat.two_pow_pos w)) ?_
  cases crcFeedback w r x <;> simp [hp]

/-- The bit that a shift of the register drops is the one the feedback takes. -/
theorem two_mul_eq_xor {w r : Nat} (hw : 1 ≤ w) (hr : r < 2 ^ w) :
    2 * r = (r.testBit (w - 1)).toNat * 2 ^ w ^^^ 2 * r % 2 ^ w := by
  obtain ⟨k, rfl⟩ := Nat.exists_eq_add_of_le' hw
  have htop : (r.testBit k).toNat = 2 * r / 2 ^ (k + 1) := by
    rw [Nat.toNat_testBit, Nat.pow_succ', Nat.mul_div_mul_left _ _ (by decide),
      Nat.mod_eq_of_lt (Nat.div_lt_of_lt_mul (by rwa [Nat.pow_succ] at hr))]
  rw [Nat.add_sub_cancel, ← mul_two_pow_add_eq_xor _ (Nat.mod_lt _ (Nat.two_pow_pos _)), htop, Nat.mul_comm (_ / _),
    Nat.div_add_mod]

/-- One step subtracts the generator `x^w + p` when the feedback bit is 1 (R252). -/
theorem two_mul_xor_eq_crcShift {w p r : Nat} (hw : 1 ≤ w) (hp : p < 2 ^ w) (hr : r < 2 ^ w) (x : Bool) :
    2 * r ^^^ x.toNat * 2 ^ w = (crcFeedback w r x).toNat * (2 ^ w + p) ^^^ crcShift w p r x := by
  have hgen : 2 ^ w + p = 2 ^ w ^^^ p := by simpa using mul_two_pow_add_eq_xor 1 hp
  calc 2 * r ^^^ x.toNat * 2 ^ w
      = (r.testBit (w - 1)).toNat * 2 ^ w ^^^ x.toNat * 2 ^ w ^^^ 2 * r % 2 ^ w := by
        conv_lhs => rw [two_mul_eq_xor hw hr, Nat.xor_right_comm]
    _ = (crcFeedback w r x).toNat * 2 ^ w ^^^ 2 * r % 2 ^ w := by rw [crcFeedback, toNat_xor_mul]
    _ = (crcFeedback w r x).toNat * (2 ^ w + p) ^^^ crcShift w p r x := by
        rw [hgen, toNat_mul_xor, crcShift_eq, Nat.xor_assoc, Nat.xor_left_comm (_ * p), Nat.xor_self, Nat.xor_zero]

theorem crcShift_xor (w p r r' : Nat) (x x' : Bool) :
    crcShift w p (r ^^^ r') (x ^^ x') = crcShift w p r x ^^^ crcShift w p r' x' := by
  have hfeedback : crcFeedback w (r ^^^ r') (x ^^ x') = (crcFeedback w r x ^^ crcFeedback w r' x') := by
    simp only [crcFeedback, Nat.testBit_xor, Bool.xor_assoc, Bool.xor_left_comm]
  rw [crcShift_eq, crcShift_eq, crcShift_eq, hfeedback, toNat_xor_mul, two_mul_xor, Nat.xor_mod_two_pow]
  ac_rfl

/-! ### A bit vector -/

/-- The register after the bits `b`, from the content `r` (R250). -/
def crcRegister (w p r : Nat) (b : Bits) : Nat := b.foldl (crcShift w p) r

theorem Crc.checksum_eq (c : Crc) (b : Bits) :
    c.checksum b = crcRegister c.width c.polyW c.initW b ^^^ c.xorW := rfl

theorem crcRegister_concat (w p r : Nat) (b : Bits) (x : Bool) :
    crcRegister w p r (b ++ [x]) = crcShift w p (crcRegister w p r b) x := List.foldl_append

theorem crcRegister_lt {w p r : Nat} (hp : p < 2 ^ w) (hr : r < 2 ^ w) (b : Bits) : crcRegister w p r b < 2 ^ w := by
  induction b using List.reverseRecOn with
  | nil => exact hr
  | append_singleton b x _ =>
    rw [crcRegister_concat]
    exact crcShift_lt hp _ x

/-- The register holds the remainder of `r·x^D + b·x^w` by `x^w + p` (R252). -/
theorem exists_gf2Mul_xor_crcRegister {w p r : Nat} (hw : 1 ≤ w) (hp : p < 2 ^ w) (hr : r < 2 ^ w) (b : Bits) :
    ∃ q, r * 2 ^ b.length ^^^ num b * 2 ^ w = gf2Mul q (2 ^ w + p) ^^^ crcRegister w p r b := by
  induction b using List.reverseRecOn with
  | nil => exact ⟨0, by simp [crcRegister, gf2Mul, gf2MulBits]⟩
  | append_singleton b x ih =>
    obtain ⟨q, hq⟩ := ih
    have hreg := crcRegister_lt hp hr b
    refine ⟨2 * q + (crcFeedback w (crcRegister w p r b) x).toNat, ?_⟩
    calc r * 2 ^ (b ++ [x]).length ^^^ num (b ++ [x]) * 2 ^ w
        = 2 * (r * 2 ^ b.length ^^^ num b * 2 ^ w) ^^^ x.toNat * 2 ^ w := by
          rw [num_concat, xor_mul_two_pow, two_mul_xor, List.length_append, List.length_singleton, Nat.pow_succ',
            Nat.mul_left_comm, Nat.mul_assoc, Nat.xor_assoc]
      _ = 2 * gf2Mul q (2 ^ w + p) ^^^ (2 * crcRegister w p r b ^^^ x.toNat * 2 ^ w) := by
          rw [hq, two_mul_xor, Nat.xor_assoc]
      _ = _ := by
          rw [two_mul_xor_eq_crcShift hw hp hreg, ← Nat.xor_assoc, ← gf2Mul_two_mul_add, crcRegister_concat]

theorem crcRegister_zipWith_xor (w p r r' : Nat) {b b' : Bits} (h : b.length = b'.length) :
    crcRegister w p (r ^^^ r') (List.zipWith xor b b') = crcRegister w p r b ^^^ crcRegister w p r' b' := by
  induction b generalizing b' r r' with
  | nil =>
    obtain rfl := List.length_eq_zero_iff.mp h.symm
    rfl
  | cons x b ih =>
    obtain _ | ⟨x', b'⟩ := b'
    · exact absurd h nofun
    · show crcRegister w p (crcShift w p (r ^^^ r') (x ^^ x')) (List.zipWith xor b b') = _
      rw [crcShift_xor, ih _ _ (Nat.succ.inj h)]
      rfl

/-! ### The checksum -/

theorem Crc.polyW_lt (c : Crc) : c.polyW < 2 ^ c.width := Nat.mod_lt _ (Nat.two_pow_pos _)

theorem Crc.initW_lt (c : Crc) : c.initW < 2 ^ c.width := Nat.mod_lt _ (Nat.two_pow_pos _)

theorem Crc.xorW_lt (c : Crc) : c.xorW < 2 ^ c.width := Nat.mod_lt _ (Nat.two_pow_pos _)

theorem Crc.checksum_xor_xorW (c : Crc) (b : Bits) :
    c.checksum b ^^^ c.xorW = crcRegister c.width c.polyW c.initW b := by
  rw [Crc.checksum_eq, Nat.xor_assoc, Nat.xor_self, Nat.xor_zero]

theorem Crc.checksum_lt (c : Crc) (b : Bits) : c.checksum b < 2 ^ c.width :=
  Nat.xor_lt_two_pow (crcRegister_lt c.polyW_lt c.initW_lt b) c.xorW_lt

/-- The checksum written as bits reads back as itself: it fits its field (R253). -/
theorem Crc.num_bitsOf_checksum (c : Crc) (b : Bits) : num (bitsOf c.width (c.checksum b)) = c.checksum b := by
  rw [num_bitsOf, Nat.mod_eq_of_lt (c.checksum_lt b)]

end Sys2Proof.Machine
end

/-! ## CRC_GEN -/

section
namespace Sys2Proof.Machine

/-- The memory after CRC_GEN: the checksum of the data stands in the field (45_crc.md R256). -/
def crcStored (s : State) : Memory :=
  bmWrite s.bm s.arg2 (bitsOf s.crc.width (s.crc.checksum (bmRead s.bm s.arg0 s.arg1)))

theorem exec_crcGen {s : State} (h : legalCrc s) :
    exec .crcGen s =
      .next (completed 0x50#8
        ⟨BitVec.ofNat 32 (s.crc.checksum (bmRead s.bm s.arg0 s.arg1)), s.args.arg1, 0#32, 0#32⟩
        { s with bm := crcStored s }) :=
  runCommand_of_checks (firstFailure_crcChecks_of_legal h)

theorem onlyBitsWritten_crcStored (s : State) : onlyBitsWritten s.bm (crcStored s) s.arg2 s.crc.width := by
  have hframe := onlyBitsWritten_bmWrite s.bm s.arg2
    (bitsOf s.crc.width (s.crc.checksum (bmRead s.bm s.arg0 s.arg1)))
  rwa [length_bitsOf] at hframe

theorem num_bmRead_crcStored (s : State) :
    num (bmRead (crcStored s) s.arg2 s.crc.width) = s.crc.checksum (bmRead s.bm s.arg0 s.arg1) := by
  have hread := bmRead_bmWrite_self s.bm s.arg2
    (bitsOf s.crc.width (s.crc.checksum (bmRead s.bm s.arg0 s.arg1)))
  rw [length_bitsOf] at hread
  rw [crcStored, hread, Crc.num_bitsOf_checksum]

/-- Settles O42: the checksum without its output XOR is the register, the remainder of the division. -/
theorem crcGenStoresTheRemainder : Obligations.CrcGenStoresTheRemainder := by
  intro s h
  obtain ⟨hw, -⟩ := id h
  obtain ⟨q, hq⟩ := exists_gf2Mul_xor_crcRegister hw s.crc.polyW_lt s.crc.initW_lt (bmRead s.bm s.arg0 s.arg1)
  rw [length_bmRead, ← Crc.checksum_xor_xorW] at hq
  refine ⟨crcStored s, _, q, exec_crcGen h, num_bmRead_crcStored s, hq, ?_, onlyBitsWritten_crcStored s⟩
  exact Nat.xor_lt_two_pow (s.crc.checksum_lt _) s.crc.xorW_lt

end Sys2Proof.Machine
end

/-! ## Trial candidates

SUPPORT. What a flipped position changes (45_crc.md R257, R260). -/

section
namespace Sys2Proof.Machine

/-! ### The difference of checksum and field -/

/-- `crc(data) XOR num(F)` of the message `z = data ++ F` (R260). -/
def Crc.difference (c : Crc) (d : Nat) (z : Bits) : Nat := c.checksum (z.take d) ^^^ num (z.drop d)

theorem Crc.difference_append (c : Crc) (data field : Bits) :
    c.difference data.length (data ++ field) = c.checksum data ^^^ num field := by
  rw [Crc.difference, List.take_left, List.drop_left]

theorem Crc.passesZ_iff_difference {c : Crc} {d : Nat} {z : Bits} : c.passesZ d z = true ↔ c.difference d z = 0 := by
  rw [Crc.passesZ, Crc.passes, beq_iff_eq, Crc.difference, Nat.xor_eq_zero_iff]

/-! ### One flip -/

/-- The `d`-bit vector with a single 1 at `p`, the `e_p` of R260. -/
def unitBits (d p : Nat) : Bits := (List.replicate d false).set p true

theorem flipAt_eq_zipWith_xor (z : Bits) (p : Nat) : flipAt z p = List.zipWith xor z (unitBits z.length p) := by
  refine List.ext_getElem (by simp [unitBits]) fun i _ _ => ?_
  obtain rfl | hne := eq_or_ne i p
  · simp [flipAt, unitBits]
  · simp [flipAt, unitBits, hne.symm]

theorem crcContribution_of_data (c : Crc) {d p : Nat} (h : p < d) :
    crcContribution c d p = crcRegister c.width c.polyW 0 (unitBits d p) := by
  have hinit : Crc.initW { c with init := 0#32, xorOut := 0#32 } = 0 := Nat.zero_mod _
  have hxor : Crc.xorW { c with init := 0#32, xorOut := 0#32 } = 0 := Nat.zero_mod _
  rw [crcContribution, if_pos h, Crc.checksum_eq, hinit, hxor, Nat.xor_zero]
  rfl

theorem crcContribution_of_field (c : Crc) {d p : Nat} (h : d ≤ p) :
    crcContribution c d p = 2 ^ (c.width - 1 - (p - d)) := if_neg (Nat.not_lt.mpr h)

/-- A flipped data bit changes the checksum by its contribution, whatever the data, I and X are. -/
theorem Crc.checksum_flipAt (c : Crc) {data : Bits} {p : Nat} (h : p < data.length) :
    c.checksum (flipAt data p) = c.checksum data ^^^ crcContribution c data.length p := by
  have hlinear := crcRegister_zipWith_xor c.width c.polyW c.initW 0
    (show data.length = (unitBits data.length p).length by simp [unitBits])
  rw [Nat.xor_zero, ← flipAt_eq_zipWith_xor] at hlinear
  rw [Crc.checksum_eq, Crc.checksum_eq, hlinear, crcContribution_of_data c h, Nat.xor_right_comm]

/-- A flipped field bit changes the field's number by the bit's weight. -/
theorem num_flipAt {z : Bits} {p : Nat} (h : p < z.length) :
    num (flipAt z p) = num z ^^^ 2 ^ (z.length - 1 - p) := by
  refine Nat.eq_of_testBit_eq fun j => ?_
  rw [Nat.testBit_xor, Nat.testBit_two_pow, testBit_num, testBit_num, length_flipAt, getD_flipAt h]
  by_cases hj : j < z.length
  · have hplace : (z.length - 1 - j = p) ↔ (z.length - 1 - p = j) := by omega
    rw [if_pos hj, if_pos hj, decide_eq_decide.mpr hplace]
  · have hne : z.length - 1 - p ≠ j := by omega
    rw [if_neg hj, if_neg hj, decide_eq_false hne, Bool.xor_false]

/-- A flip changes the difference by the position's contribution, be it in the data or in the field. -/
theorem Crc.difference_flipAt (c : Crc) {d p : Nat} {z : Bits} (hz : z.length = d + c.width) (hp : p < d + c.width) :
    c.difference d (flipAt z p) = c.difference d z ^^^ crcContribution c d p := by
  obtain hdata | hfield := Nat.lt_or_ge p d
  · have htake : (z.take d).length = d := by rw [List.length_take]; omega
    have hflip : (flipAt z p).take d = flipAt (z.take d) p := List.take_modify ..
    have hdrop : (flipAt z p).drop d = z.drop d := List.drop_modify_of_lt _ _ _ _ hdata
    rw [Crc.difference, hflip, hdrop, Crc.checksum_flipAt c (htake.symm ▸ hdata), htake, Nat.xor_right_comm,
      Crc.difference]
  · have hlen : (z.drop d).length = c.width := by rw [List.length_drop]; omega
    have hflip : (flipAt z p).drop d = flipAt (z.drop d) (p - d) := List.drop_modify_of_ge _ _ _ _ hfield
    have htake : (flipAt z p).take d = z.take d := by
      rw [flipAt, List.take_modify, List.modify_eq_self (by rw [List.length_take]; omega)]
    rw [Crc.difference, hflip, htake, num_flipAt (by omega), hlen, ← crcContribution_of_field c hfield,
      ← Nat.xor_assoc, Crc.difference]

/-- Settles O44: a candidate passes when its flips bring the difference to 0. -/
theorem crcCandidatesAreLinear : Obligations.CrcCandidatesAreLinear := by
  intro c data field _ _ hfield d diff p hp
  have hz : (data ++ field).length = d + c.width := by rw [List.length_append, hfield]
  have hdiff : c.difference d (data ++ field) = diff := c.difference_append data field
  refine ⟨?_, fun q _ hq => ?_⟩
  · rw [Crc.passesZ_iff_difference, c.difference_flipAt hz hp, hdiff, Nat.xor_eq_zero_iff]
  · rw [Crc.passesZ_iff_difference, c.difference_flipAt (by rwa [length_flipAt]) hq, c.difference_flipAt hz hp, hdiff,
      Nat.xor_assoc, Nat.xor_eq_zero_iff]

end Sys2Proof.Machine
end

/-! ## Trial correction

SUPPORT. The candidates and all that `crcver` can answer (45_crc.md R257, R258). -/

section
namespace Sys2Proof.Machine

/-! ### The candidates -/

/-- The message `z = data ++ F` passes (R253). -/
def Crc.Passes (c : Crc) (d : Nat) (z : Bits) : Prop := c.checksum (z.take d) = num (z.drop d)

/-- The candidate `{p}` passes (R257). -/
def Crc.Single (c : Crc) (d : Nat) (z : Bits) (p : Nat) : Prop := p < d + c.width ∧ c.Passes d (flipAt z p)

/-- The candidate `{p, q}` passes (R257). -/
def Crc.Pair (c : Crc) (d : Nat) (z : Bits) (p q : Nat) : Prop :=
  p < q ∧ q < d + c.width ∧ c.Passes d (flipAt (flipAt z p) q)

theorem eq_singleton_iff_of_nodup {α : Type} {l : List α} {a : α} (hl : l.Nodup) :
    l = [a] ↔ a ∈ l ∧ ∀ b ∈ l, b = a := by
  constructor
  · rintro rfl
    simp
  · rintro ⟨hmem, honly⟩
    refine List.Perm.eq_singleton ((List.perm_ext_iff_of_nodup hl (List.nodup_singleton a)).mpr fun b => ?_)
    rw [List.mem_singleton]
    exact ⟨honly b, fun h => h ▸ hmem⟩

theorem Crc.pairwise_singles (c : Crc) (d : Nat) (z : Bits) : (c.singles d z).Pairwise (· < ·) :=
  List.pairwise_lt_range.filter _

theorem Crc.nodup_pairs (c : Crc) (d : Nat) (z : Bits) : (c.pairs d z).Nodup := by
  refine List.nodup_flatMap.mpr ⟨fun p _ => ?_, List.nodup_range.imp fun {p p'} hne => ?_⟩
  · exact (List.nodup_range.filter _).map fun q q' h => congrArg Prod.snd h
  · intro e he he'
    obtain ⟨_, -, rfl⟩ := List.mem_map.mp he
    obtain ⟨_, -, h⟩ := List.mem_map.mp he'
    exact hne (congrArg Prod.fst h).symm

section
variable {c : Crc} {d : Nat} {z : Bits}

theorem Crc.passesZ_iff : c.passesZ d z = true ↔ c.Passes d z := beq_iff_eq

theorem Crc.mem_singles (hz : z.length = d + c.width) {p : Nat} : p ∈ c.singles d z ↔ c.Single d z p := by
  rw [Crc.singles, List.mem_filter, List.mem_range, Crc.passesZ_iff, hz, Crc.Single]

theorem Crc.mem_pairs (hz : z.length = d + c.width) {p q : Nat} : (p, q) ∈ c.pairs d z ↔ c.Pair d z p q := by
  simp only [Crc.pairs, List.mem_flatMap, List.mem_map, List.mem_filter, List.mem_range, Bool.and_eq_true,
    decide_eq_true_eq, Prod.mk.injEq, Crc.passesZ_iff, hz, Crc.Pair]
  constructor
  · rintro ⟨_, -, _, ⟨hq, hlt, hpass⟩, rfl, rfl⟩
    exact ⟨hlt, hq, hpass⟩
  · rintro ⟨hlt, hq, hpass⟩
    exact ⟨p, hlt.trans hq, q, ⟨hq, hlt, hpass⟩, rfl, rfl⟩

theorem Crc.singles_eq_nil_iff (hz : z.length = d + c.width) : c.singles d z = [] ↔ ∀ p, ¬ c.Single d z p := by
  simp only [List.eq_nil_iff_forall_not_mem, Crc.mem_singles hz]

theorem Crc.singles_eq_singleton_iff (hz : z.length = d + c.width) {p : Nat} :
    c.singles d z = [p] ↔ c.Single d z p ∧ ∀ p', c.Single d z p' → p' = p := by
  simp only [eq_singleton_iff_of_nodup (c.pairwise_singles d z).nodup, Crc.mem_singles hz]

theorem Crc.pairs_eq_singleton_iff (hz : z.length = d + c.width) {p q : Nat} :
    c.pairs d z = [(p, q)] ↔ c.Pair d z p q ∧ ∀ p' q', c.Pair d z p' q' → p' = p ∧ q' = q := by
  simp only [eq_singleton_iff_of_nodup (c.nodup_pairs d z), Prod.forall, Crc.mem_pairs hz, Prod.mk.injEq]

/-- Two single candidates or more: the first two listed. -/
theorem Crc.exists_singles_of_cons_cons (hz : z.length = d + c.width) {p q : Nat} {rest : List Nat}
    (h : c.singles d z = p :: q :: rest) : ∃ p q, p < q ∧ c.Single d z p ∧ c.Single d z q := by
  have hsorted := c.pairwise_singles d z
  rw [h, List.pairwise_cons] at hsorted
  exact ⟨p, q, hsorted.1 q (by simp), (Crc.mem_singles hz).mp (by simp [h]), (Crc.mem_singles hz).mp (by simp [h])⟩

/-! ### The decision -/

/-- Why `crcver` gives up on a message that does not pass (R258): no trial, an ambiguous single flip, no trial of pairs,
or no pair or more than one. -/
inductive Crc.Undecided (c : Crc) (d : Nat) (z : Bits) : Prop
  | noTrial (ht : c.trial.toNat = 0)
  | ambiguous (h : ∃ p q, p < q ∧ c.Single d z p ∧ c.Single d z q)
  | noPairTrial (hs : ∀ p, ¬ c.Single d z p) (ht : c.trial.toNat = 1)
  | noOnlyPair (hs : ∀ p, ¬ c.Single d z p)
      (hp : ¬ ∃ p q, c.Pair d z p q ∧ ∀ p' q', c.Pair d z p' q' → p' = p ∧ q' = q)

/-- All that `crcver` can answer (R258). -/
inductive CrcDecision (c : Crc) (d : Nat) (z : Bits) : CrcVerdict → Prop
  | passed (hz : c.Passes d z) : CrcDecision c d z ⟨.passed, []⟩
  | single (p : Nat) (hz : ¬ c.Passes d z) (ht : c.trial.toNat ≠ 0) (hp : c.Single d z p)
      (honly : ∀ p', c.Single d z p' → p' = p) : CrcDecision c d z ⟨.corrected, [p]⟩
  | pair (p q : Nat) (hz : ¬ c.Passes d z) (ht : c.trial.toNat ≠ 0) (ht' : c.trial.toNat ≠ 1)
      (hs : ∀ p, ¬ c.Single d z p) (hp : c.Pair d z p q)
      (honly : ∀ p' q', c.Pair d z p' q' → p' = p ∧ q' = q) : CrcDecision c d z ⟨.corrected, [p, q]⟩
  | failed (hz : ¬ c.Passes d z) (hwhy : c.Undecided d z) : CrcDecision c d z ⟨.failed, []⟩

theorem Crc.verdict_of_passes (h : c.Passes d z) : c.verdict d z = ⟨.passed, []⟩ := if_pos (Crc.passesZ_iff.mpr h)

theorem crcDecision_verdict (hlen : z.length = d + c.width) : CrcDecision c d z (c.verdict d z) := by
  unfold Crc.verdict
  split
  · next hz => exact .passed (Crc.passesZ_iff.mp hz)
  · next hz =>
    rw [Crc.passesZ_iff] at hz
    split
    · next ht => exact .failed hz (.noTrial ht)
    · next ht =>
      split
      · next p hs =>
        obtain ⟨hp, honly⟩ := (Crc.singles_eq_singleton_iff hlen).mp hs
        exact .single p hz ht hp honly
      · next hs => exact .failed hz (.ambiguous (Crc.exists_singles_of_cons_cons hlen hs))
      · next hs =>
        rw [Crc.singles_eq_nil_iff hlen] at hs
        split
        · next ht' => exact .failed hz (.noPairTrial hs ht')
        · next ht' =>
          split
          · next p q hp =>
            obtain ⟨hp, honly⟩ := (Crc.pairs_eq_singleton_iff hlen).mp hp
            exact .pair p q hz ht ht' hs hp honly
          · next hp =>
            exact .failed hz (.noOnlyPair hs fun ⟨p, q, h⟩ => hp p q ((Crc.pairs_eq_singleton_iff hlen).mpr h))

end

end Sys2Proof.Machine
end

/-! ## CRC_VERIFY

SUPPORT. What a correction writes (45_crc.md R264). -/

section
namespace Sys2Proof.Machine

/-! ### The correction -/

theorem onlyTwoRangesWritten_of_onlyBitsWritten {m m₁ m' : Memory} {a n f w : Nat} (h : onlyBitsWritten m m₁ a n)
    (h' : onlyBitsWritten m₁ m' f w) : onlyTwoRangesWritten m m' a n f w :=
  ⟨fun x hx hx' => (h'.1 x hx').trans (h.1 x hx), fun o ho ho' => (h'.2 o ho').trans (h.2 o ho)⟩

/-- `m'` holds the message `y` in data and field, and differs from `m` in no other bit. -/
def crcCorrected (s : State) (m' : Memory) (y : Bits) : Prop :=
  bmRead m' s.arg0 s.arg1 ++ bmRead m' s.arg2 s.crc.width = y
  ∧ onlyTwoRangesWritten s.bm m' s.arg0 s.arg1 s.arg2 s.crc.width

theorem crcCorrected_bmWrite {s : State} (h : legalCrc s) {y : Bits} (hy : y.length = s.arg1 + s.crc.width) :
    crcCorrected s (bmWrite (bmWrite s.bm s.arg0 (y.take s.arg1)) s.arg2 (y.drop s.arg1)) y := by
  obtain ⟨-, -, -, -, -, -, hdisjoint⟩ := h
  have htake : (y.take s.arg1).length = s.arg1 := by rw [List.length_take]; omega
  have hdrop : (y.drop s.arg1).length = s.crc.width := by rw [List.length_drop]; omega
  have hdata := bmRead_bmWrite_self s.bm s.arg0 (y.take s.arg1)
  have hdataFrame := onlyBitsWritten_bmWrite s.bm s.arg0 (y.take s.arg1)
  rw [htake] at hdata hdataFrame
  generalize bmWrite s.bm s.arg0 (y.take s.arg1) = m at hdata hdataFrame ⊢
  have hfield := bmRead_bmWrite_self m s.arg2 (y.drop s.arg1)
  have hfieldFrame := onlyBitsWritten_bmWrite m s.arg2 (y.drop s.arg1)
  rw [hdrop] at hfield hfieldFrame
  refine ⟨?_, onlyTwoRangesWritten_of_onlyBitsWritten hdataFrame hfieldFrame⟩
  rw [bmRead_of_onlyBitsWritten hfieldFrame hdisjoint, hdata, hfield, List.take_append_drop]

/-! ### The command -/

/-- The message that CRC_VERIFY reads, `Z = data ++ F` (R257). -/
def crcMessage (s : State) : Bits := bmRead s.bm s.arg0 s.arg1 ++ bmRead s.bm s.arg2 s.crc.width

theorem length_crcMessage (s : State) : (crcMessage s).length = s.arg1 + s.crc.width := by
  rw [crcMessage, List.length_append, length_bmRead, length_bmRead]

theorem exec_crcVerify {s : State} (h : legalCrc s) {v : CrcVerdict}
    (hv : s.crc.verdict s.arg1 (crcMessage s) = v) :
    exec .crcVerify s =
      .next (completed 0x51#8
        ⟨v.outcome.code, BitVec.ofNat 32 v.positions.length, v.position 0, v.position 1⟩
        { s with
          bm := crcWriteBack s.bm s.arg0 s.arg1 s.arg2 (crcMessage s) v
          ccnt := saturated s.ccnt v.positions.length }) := by
  subst hv
  exact runCommand_of_checks (firstFailure_crcChecks_of_legal h)

/-- Settles O43: each outcome is one way through the decision, and a correction writes the flipped message back. -/
theorem crcVerifyDecides : Obligations.CrcVerifyDecides := by
  intro s h z len pass stored noSingle
  obtain ⟨-, -, htrial, -⟩ := id h
  have hlen : z.length = len := length_crcMessage s
  have hnone (hs : ∀ p, ¬ s.crc.Single s.arg1 z p) : noSingle := fun p hp hpass => hs p ⟨hp, hpass⟩
  refine ⟨_, _, _, _, _, exec_crcVerify h rfl, ?_⟩
  have hdecision := crcDecision_verdict (length_crcMessage s)
  generalize s.crc.verdict s.arg1 (crcMessage s) = v at hdecision ⊢
  cases hdecision with
  | passed hz => exact .inl ⟨rfl, rfl, rfl, rfl, rfl, hz⟩
  | single p hz ht hp honly =>
    have hflip : (flipAt z p).length = len := (length_flipAt z p).trans hlen
    exact .inr (.inl ⟨rfl, rfl, rfl, hz, Nat.pos_of_ne_zero ht, p, hp.1, rfl, hp.2,
      fun p' hp' hpass => honly p' ⟨hp', hpass⟩, crcCorrected_bmWrite h hflip⟩)
  | pair p q hz ht ht' hs hp honly =>
    have hflip : (flipAt (flipAt z p) q).length = len := by rw [length_flipAt, length_flipAt, hlen]
    obtain ⟨hlt, hq, hpass⟩ := hp
    exact .inr (.inr (.inl ⟨rfl, rfl, hz, by omega, hnone hs, p, q, hlt, hq, rfl, rfl, hpass,
      fun p' q' hlt' hq' hpass' => honly p' q' ⟨hlt', hq', hpass'⟩, crcCorrected_bmWrite h hflip⟩))
  | failed hz hwhy =>
    refine .inr (.inr (.inr ⟨rfl, rfl, rfl, rfl, rfl, hz, ?_⟩))
    cases hwhy with
    | noTrial ht => exact .inl ht
    | ambiguous h2 =>
      obtain ⟨p, q, hlt, hp, hq⟩ := h2
      exact .inr (.inl ⟨p, q, hlt, hq.1, hp.2, hq.2⟩)
    | noPairTrial hs ht => exact .inr (.inr (.inl ⟨hnone hs, ht⟩))
    | noOnlyPair hs hp =>
      refine .inr (.inr (.inr ⟨hnone hs, fun ⟨p, q, hlt, hq, hpass, honly⟩ => ?_⟩))
      exact hp ⟨p, q, ⟨hlt, hq, hpass⟩, fun p' q' hp' => honly p' q' hp'.1 hp'.2.1 hp'.2.2⟩

/-- A message that passes is left as it is, and so is everything else. -/
theorem exec_crcVerify_of_passes {s : State} (h : legalCrc s) (hpass : s.crc.Passes s.arg1 (crcMessage s)) :
    exec .crcVerify s = .next (completed 0x51#8 ⟨0#32, 0#32, 0xFFFFFFFF#32, 0xFFFFFFFF#32⟩ s) :=
  calc exec .crcVerify s
      = .next (completed 0x51#8 ⟨0#32, 0#32, 0xFFFFFFFF#32, 0xFFFFFFFF#32⟩
          { s with ccnt := saturated s.ccnt 0 }) := exec_crcVerify h (Crc.verdict_of_passes hpass)
    _ = _ := by rw [saturated_zero]

/-! ### A field that CRC_GEN stored -/

/-- Data that CRC_GEN left alone and the field it stored are a message that passes. -/
theorem passes_crcStored {s : State} (h : legalCrc s) :
    s.crc.Passes s.arg1
      (bmRead (crcStored s) s.arg0 s.arg1 ++ bmRead (crcStored s) s.arg2 s.crc.width) := by
  obtain ⟨-, -, -, -, -, -, hdisjoint⟩ := h
  have hdata := bmRead_of_onlyBitsWritten (onlyBitsWritten_crcStored s) hdisjoint
  rw [Crc.Passes, List.take_left' (length_bmRead ..), List.drop_left' (length_bmRead ..), hdata,
    num_bmRead_crcStored]

/-- Settles O45: the two commands read the same operands, and the stored field passes. -/
theorem generatedFieldVerifies : Obligations.GeneratedFieldVerifies :=
  fun _ h => ⟨_, exec_crcGen h, exec_crcVerify_of_passes h (passes_crcStored h)⟩

end Sys2Proof.Machine
end

/-! ## Completions

SUPPORT. The two completions of a command, and what each leaves of STATUS (60_exceptions.md R300 to R302). -/

section
namespace Sys2Proof.Machine

/-! ### Commands -/

/-- ILLEGAL is an error of words (30_encoding.md R115): no command checks for it. -/
theorem exec_eq_runCommand_of_legalChecks (i : Instr) (s : State) :
    ∃ cs ch r, exec i s = runCommand i cs ch r s ∧ ∀ c ∈ cs, c.2 ≠ .illegal := by
  cases i with
  | nop =>
    unfold exec execNop
    exact ⟨[], _, _, rfl, nofun⟩
  | corrClear =>
    unfold exec execCorrClear
    exact ⟨[], _, _, rfl, nofun⟩
  | frmReset =>
    unfold exec execFrmReset
    exact ⟨[], _, _, rfl, nofun⟩
  | frmAck =>
    unfold exec execFrmAck
    exact ⟨[], _, _, rfl, nofun⟩
  | _ => exact ⟨_, _, _, rfl, by simp [crcChecks]⟩

theorem firstFailure_ne_illegal {cs : List (Bool × CmdError)} {e : CmdError} (hcs : ∀ c ∈ cs, c.2 ≠ .illegal)
    (h : firstFailure cs = some e) : e ≠ .illegal := by
  obtain ⟨before, after, rfl, -⟩ := firstFailure_eq_some.mp h
  exact hcs (false, e) (by simp)

/-- ERRCODE tells the two completions apart. -/
theorem State.complete_ne_raiseError (u s : State) (opc opc' : BitVec 8) (r : Results) (e : CmdError) :
    u.complete opc r ≠ s.raiseError opc' e :=
  fun h => e.code_ne_zero (congrArg (fun t => t.status.errCode) h).symm

/-- Every command ends by R301 with one of its own errors, or by R300 with its effect. -/
theorem exec_outcome (i : Instr) (s : State) :
    (∃ e : CmdError, e ≠ .illegal ∧ exec i s = .next (s.raiseError i.opcode e))
      ∨ ∃ u r, Effect s i u ∧ exec i s = .next (u.complete i.opcode r) := by
  obtain ⟨cs, ch, r, hexec, hcs⟩ := exec_eq_runCommand_of_legalChecks i s
  obtain ⟨-, hrun⟩ | ⟨e, he, hrun⟩ := runCommand_cases i cs ch r s
  · have hnext := hexec.trans hrun
    obtain ⟨e, hraise⟩ | ⟨u, r', heffect, hu⟩ := exec_effect hnext
    · exact absurd hraise (ch.complete_ne_raiseError s _ _ r e)
    · exact .inr ⟨u, r', heffect, hu ▸ hnext⟩
  · exact .inl ⟨e, firstFailure_ne_illegal hcs he, hexec.trans hrun⟩

theorem FramerOnly.err {s t : State} (h : FramerOnly s t) : t.status.err = s.status.err := by
  rw [h.1]
  rfl

/-- ERR belongs to the error completion: no command's own changes touch it. -/
theorem Effect.err {s u : State} {i : Instr} (h : Effect s i u) : u.status.err = s.status.err := by
  cases h with
  | frmPush _ _ _ hp => exact hp.framerOnly.err
  | _ => rfl

/-- Settles O10: the two ways a command can end. -/
theorem everyCommandCompletes : Obligations.EveryCommandCompletes := by
  intro i s
  obtain ⟨e, he, h⟩ | ⟨u, r, heffect, h⟩ := exec_outcome i s
  · exact ⟨_, h, rfl, rfl, rfl, .inr ⟨e, he, rfl⟩⟩
  · exact ⟨_, h, rfl, rfl, rfl, .inl ⟨rfl, heffect.err⟩⟩

/-- Settles O11: a success has ERRCODE 0, and the error completion starts from the state of issue. -/
theorem errorLeavesNoEffect : Obligations.ErrorLeavesNoEffect := by
  intro i s t h herror
  obtain ⟨e, rfl⟩ | ⟨u, r, -, rfl⟩ := exec_effect h
  · rfl
  · exact absurd rfl herror

/-! ### Command words -/

/-- A word in progress completes as its command does, or by the error of an illegal word (30_encoding.md R115). -/
theorem runWord_outcome {w : Word} {s t : State} (h : runWord w s = .next t) :
    (∃ i, decode w = .ok i ∧ exec i s = .next t)
      ∨ (∀ i, decode w ≠ .ok i) ∧ t = s.raiseIllegal w := by
  unfold runWord at h
  split at h
  · next i hi => exact .inl ⟨i, hi, h⟩
  · next e he =>
    cases h
    exact .inr ⟨fun i hi => absurd (he.symm.trans hi) nofun, rfl⟩

/-- ERR after a completion, by the completion's ERRCODE. -/
theorem err_of_runWord {w : Word} {s t : State} (h : runWord w s = .next t) :
    (t.status.errCode = 0#4 ∧ t.status.err = s.status.err) ∨ (t.status.errCode ≠ 0#4 ∧ t.status.err = true) := by
  obtain ⟨i, -, hexec⟩ | ⟨-, rfl⟩ := runWord_outcome h
  · obtain ⟨e, rfl⟩ | ⟨u, r, heffect, rfl⟩ := exec_effect hexec
    · exact .inr ⟨e.code_ne_zero, rfl⟩
    · exact .inl ⟨rfl, heffect.err⟩
  · exact .inr ⟨CmdError.code_ne_zero .illegal, rfl⟩

theorem completion_of_runWord {w : Word} {s t : State} (h : runWord w s = .next t) :
    t.status.done = true ∧ t.inFlight = none ∧ t.status.busyErr = s.status.busyErr := by
  obtain ⟨i, -, hexec⟩ | ⟨-, rfl⟩ := runWord_outcome h
  · obtain ⟨-, -, hbusyErr, -⟩ := commandsKeepOperandsAndConfiguration i s t hexec
    obtain ⟨u, hu, hidle, hdone, -⟩ := everyCommandCompletes i s
    cases hexec.symm.trans hu
    exact ⟨hdone, hidle, hbusyErr⟩
  · exact ⟨rfl, rfl, rfl⟩

/-! ### SYNC -/

/-- The word `w`, completing from `s` in `t`, is a CORR_PUSH that detects (41_correlator.md R143, R144, R146). -/
def Detection (w : Word) (s t : State) : Prop :=
  decode w = .ok .corrPush ∧ 1 ≤ s.corr.len.toNat ∧ s.corr.len.toNat ≤ 64 ∧ fgt32 t.corr.score s.corr.thresh = true

theorem sync_of_corrPush {s t : State} (h : exec .corrPush s = .next t) (hpos : 1 ≤ s.corr.len.toNat)
    (hmax : s.corr.len.toNat ≤ 64) : t.status.sync = (s.status.sync || fgt32 t.corr.score s.corr.thresh) := by
  obtain ⟨c, hc, -⟩ := corrPushStoresAndScores s hpos hmax
  cases h.symm.trans hc
  rfl

theorem sync_of_detection {w : Word} {s t : State} (h : runWord w s = .next t) (hd : Detection w s t) :
    t.status.sync = true := by
  obtain ⟨hw, hpos, hmax, hgt⟩ := hd
  rw [runWord_of_decode s hw] at h
  rw [sync_of_corrPush h hpos hmax, hgt, Bool.or_true]

/-- Only a detection raises SYNC, and no command clears it. -/
theorem sync_of_not_detection {w : Word} {s t : State} (h : runWord w s = .next t) (hd : ¬ Detection w s t) :
    t.status.sync = s.status.sync := by
  obtain ⟨i, hw, hexec⟩ | ⟨-, rfl⟩ := runWord_outcome h
  · by_cases hpush : i = .corrPush
    · subst hpush
      by_cases hn : 1 ≤ s.corr.len.toNat ∧ s.corr.len.toNat ≤ 64
      · obtain ⟨hpos, hmax⟩ := hn
        have hgt : fgt32 t.corr.score s.corr.thresh = false :=
          Bool.eq_false_iff.mpr fun hgt => hd ⟨hw, hpos, hmax, hgt⟩
        rw [sync_of_corrPush hexec hpos hmax, hgt, Bool.or_false]
      · obtain ⟨hturned, -⟩ := correlatorNeedsLegalLength s (by omega)
        cases hexec.symm.trans hturned
        rfl
    · obtain ⟨-, hsync, -⟩ := unitsChangeOnlyUnderTheirCommands i s t hexec
      exact hsync hpush
  · rfl

end Sys2Proof.Machine
end

/-! ## STATUS

SUPPORT. STATUS on the host's side: its bits in the word a read returns (10_state.md R33), and a write in the cycle of a
completion (60_exceptions.md R312; log 18). -/

section
namespace Sys2Proof.Machine

/-! ### The word -/

theorem target_status {off : BitVec 12} (h : off.toNat / 4 = 2) : target off = .status :=
  target_of_lt (o := 8) (by omega) (by decide)

/-- STATUS is one of the registers that BUSY does not guard. -/
theorem State.hostRead_status (s : State) {off : BitVec 12} (h : target off = .status) :
    (s.hostRead off).rdata = some s.statusWord := by
  simp [State.hostRead, State.readTarget, h]

theorem getElem_bitAt (b : Bool) (i : Nat) {j : Nat} (hj : j < 32) : (bitAt b i)[j] = (b && decide (j = i)) := by
  by_cases hlt : j < i
  · have hne : j ≠ i := by omega
    simp [bitAt, hlt, hne]
  · have hplace : j - i = 0 ↔ j = i := by omega
    simp [bitAt, hlt, hplace, Bool.and_comm]

/-- The flags of STATUS, bit 0 first. -/
def State.statusFlags (s : State) : List Bool :=
  [s.busy, s.status.done, s.status.err, s.status.busyErr, s.status.frameReady, s.status.sync,
    s.frm.fstate == .capturing, s.irq]

theorem State.getLsbD_statusWord_flag (s : State) {j : Nat} (hj : j < 8) :
    s.statusWord.getLsbD j = s.statusFlags[j] := by
  interval_cases j <;> simp [State.statusWord, State.statusFlags, getElem_bitAt]

/-- Above the flags STATUS holds its two fields, ERRCODE and LASTOP. -/
theorem State.getLsbD_statusWord_field (s : State) {j : Nat} (hge : 8 ≤ j) (hlt : j < 32) :
    s.statusWord.getLsbD j
      = (s.status.errCode.getLsbD (j - 8) || (!decide (j < 16) && s.status.lastOp.getLsbD (j - 16))) := by
  have hflag : ∀ b, ∀ i < 8, (bitAt b i)[j] = false := fun b i hi => by
    have hne : j ≠ i := by omega
    simp [getElem_bitAt b i hlt, hne]
  have hfield : ¬ j < 8 := by omega
  simp [State.statusWord, hflag, hfield, hlt]

theorem State.errCode_statusWord (s : State) : s.statusWord.extractLsb' 8 4 = s.status.errCode := by
  apply BitVec.eq_of_getLsbD_eq
  intro j hj
  have hlow : 8 + j < 16 := by omega
  simp [s.getLsbD_statusWord_field (j := 8 + j) (by omega) (by omega), hj, hlow]

theorem State.lastOp_statusWord (s : State) : s.statusWord.extractLsb' 16 8 = s.status.lastOp := by
  apply BitVec.eq_of_getLsbD_eq
  intro j hj
  have herr : s.status.errCode.getLsbD (16 + j - 8) = false := BitVec.getLsbD_of_ge _ _ (by omega)
  simp [s.getLsbD_statusWord_field (j := 16 + j) (by omega) (by omega), hj, herr]

/-- Bits between ERRCODE and LASTOP and bits above LASTOP read 0. -/
theorem State.reserved_statusWord (s : State) {lo n : Nat} (h : 12 ≤ lo ∧ lo + n ≤ 16 ∨ 24 ≤ lo ∧ lo + n ≤ 32) :
    s.statusWord.extractLsb' lo n = 0#n := by
  apply BitVec.eq_of_getLsbD_eq
  intro j hj
  have herr : s.status.errCode.getLsbD (lo + j - 8) = false := BitVec.getLsbD_of_ge _ _ (by omega)
  have hop : (!decide (lo + j < 16) && s.status.lastOp.getLsbD (lo + j - 16)) = false := by
    by_cases h16 : lo + j < 16
    · rw [decide_eq_true h16, Bool.not_true, Bool.false_and]
    · rw [BitVec.getLsbD_of_ge _ _ (by omega), Bool.and_false]
  simp [s.getLsbD_statusWord_field (j := lo + j) (by omega) (by omega), herr, hop]

/-- Settles O49: the read is not guarded by BUSY, and each bit of the word is a flag or a field's. -/
theorem statusReadsItsFields : Obligations.StatusReadsItsFields := by
  intro s off hoff
  have hflag {j : Nat} (hj : j < 8) := s.getLsbD_statusWord_flag hj
  have hbusy : s.statusWord.getLsbD 0 = s.inFlight.isSome := hflag (by decide)
  refine ⟨s.statusWord, s.hostRead_status (target_status hoff), rfl, fun hi => ?_, fun c hc => ?_, hflag (by decide),
    hflag (by decide), hflag (by decide), hflag (by decide), hflag (by decide), hflag (by decide), hflag (by decide),
    s.errCode_statusWord, s.reserved_statusWord (by decide), s.lastOp_statusWord, s.reserved_statusWord (by decide)⟩
  · rw [hbusy, hi, Option.isSome_none]
  · rw [hbusy, hc, Option.isSome_some]

/-! ### A write in the cycle of a completion -/

/-- The clearing is applied first, so the word completes from the state that the write leaves (log 18). -/
theorem step_of_write_status {s : State} {w v : Word} {off : BitVec 12} {rest : List HostOp}
    (hf : s.inFlight = some ⟨w, 0⟩) (ht : target off = .status) (hh : s.host = .write off v :: rest) :
    step s = runWord w ((s.withHost rest).writeStatus v) := by
  have hv : s.statusWriteNow = some v := by simp [State.statusWriteNow, hh, ht]
  rw [step_of_statusWrite hf hv, hh, List.tail_cons]

/-- Settles O60: the completion comes after the clearing and sets its bits again; the others stay as the write left
them. -/
theorem writeWithCompletionLeavesDoneSet : Obligations.WriteWithCompletionLeavesDoneSet := by
  intro s t w v off rest hf hoff hh hstep
  rw [step_of_write_status hf (target_status hoff) hh] at hstep
  obtain ⟨hdone, hidle, hbusyErr⟩ := completion_of_runWord hstep
  refine ⟨hdone, host_of_runWord hstep, hidle, hbusyErr, fun herror => ?_, fun hsuccess => ?_,
    fun hd => sync_of_detection hstep hd, fun hd => sync_of_not_detection hstep hd⟩
  · obtain ⟨hsuccess, -⟩ | ⟨-, herr⟩ := err_of_runWord hstep
    · exact absurd hsuccess herror
    · exact herr
  · obtain ⟨-, herr⟩ | ⟨herror, -⟩ := err_of_runWord hstep
    · exact herr
    · exact absurd hsuccess herror

end Sys2Proof.Machine
end

/-! ## The BUSY hazard

SUPPORT. The offsets whose accesses BUSY does not guard, and what a write to any other comes to
(70_reset_and_hazards.md R337). -/

section
namespace Sys2Proof.Machine

theorem target_id {off : BitVec 12} (h : off.toNat / 4 = 0) : target off = .id :=
  target_of_lt (o := 0) (by omega) (by decide)

theorem target_ctrl {off : BitVec 12} (h : off.toNat / 4 = 1) : target off = .ctrl :=
  target_of_lt (o := 4) (by omega) (by decide)

theorem controlTarget_guarded {o : Nat} (hctrl : o ≠ 0x004) (hstatus : o ≠ 0x008) :
    controlTarget o ≠ .ctrl ∧ controlTarget o ≠ .status := by
  unfold controlTarget
  split
  case h_2 => exact absurd rfl hctrl
  case h_3 => exact absurd rfl hstatus
  all_goals exact ⟨nofun, nofun⟩

/-- No other word of the window is CTRL or STATUS. -/
theorem target_guarded {off : BitVec 12} (hctrl : off.toNat / 4 ≠ 1) (hstatus : off.toNat / 4 ≠ 2) :
    target off ≠ .ctrl ∧ target off ≠ .status := by
  unfold target
  dsimp only
  split_ifs
  · exact controlTarget_guarded (by omega) (by omega)
  all_goals exact ⟨nofun, nofun⟩

section
variable {s : State} {off : BitVec 12}

theorem State.hostWrite_guarded (hb : s.inFlight ≠ none) (hctrl : target off ≠ .ctrl) (hstatus : target off ≠ .status)
    (v : Word) : s.hostWrite off v = s.raiseBusyErr := by
  simp [State.hostWrite, State.busy, Option.isSome_iff_ne_none, hb, hctrl, hstatus]

/-- CTRL and STATUS are written busy or not. -/
theorem State.hostWrite_unguarded {t : Target} (ht : target off = t) (v : Word) (hu : t ∈ [.ctrl, .status] := by simp) :
    s.hostWrite off v = s.writeTarget v t := by
  have hcases : t = .ctrl ∨ t = .status := by simpa using hu
  obtain rfl | rfl := hcases <;> simp [State.hostWrite, ht]

/-- ID, CTRL and STATUS are read busy or not. -/
theorem State.hostRead_unguarded {t : Target} (ht : target off = t) (hu : t ∈ [.id, .ctrl, .status] := by simp) :
    (s.hostRead off).rdata = some (s.readTarget t) := by
  have hcases : t = .id ∨ t = .ctrl ∨ t = .status := by simpa using hu
  obtain rfl | rfl | rfl := hcases <;> simp [State.hostRead, ht]

end

/-- Settles O51: an offset leads to an unguarded register, or the write to it raises BUSYERR and nothing else. -/
theorem busyDropsHostWrites : Obligations.BusyDropsHostWrites := by
  intro s off v hb
  refine ⟨fun hctrl hstatus => ?_, fun h => State.hostWrite_unguarded (target_ctrl h) v, fun h hv => ?_,
    fun h => State.hostWrite_unguarded (target_status h) v,
    fun h => State.hostRead_unguarded (target_id h), fun h => State.hostRead_unguarded (target_ctrl h),
    fun h => State.hostRead_unguarded (target_status h)⟩
  · obtain ⟨htctrl, htstatus⟩ := target_guarded hctrl hstatus
    exact State.hostWrite_guarded hb htctrl htstatus v
  · rw [State.hostWrite_unguarded (target_ctrl h), State.writeTarget_ctrl hv]

end Sys2Proof.Machine
end

/-! ## Latency

SUPPORT. The cycles of a command under a host that does nothing (70_reset_and_hazards.md R336; log 2). -/

section
namespace Sys2Proof.Machine

theorem run_succ_of_next {M : Host.Core} {s t : M.State} (h : M.step s = .next t) (k : Nat) :
    M.run (k + 1) s = M.run k t := by
  simp only [Host.Core.run, h]

/-- The cycles before the last only count down, so the word completes from the state it was issued in. -/
theorem run_of_quietHost {w : Word} {n : Nat} {s : State} (hf : s.inFlight = some ⟨w, n⟩) (hh : s.host = []) :
    core.run (n + 1) s = runWord w (s.latch w) := by
  induction n generalizing s with
  | zero =>
    have hlatch : s.latch w = s := by rw [State.latch, ← hf]; rfl
    obtain ⟨t, ht⟩ := runWord_next w s
    have hstep : step s = .next t := (step_of_quietHost hf hh).trans ht
    rw [hlatch, ht]
    exact run_succ_of_next (M := core) hstep 0
  | succ n ih =>
    have hstep : step s = .next (s.withInFlight (some ⟨w, n⟩)) :=
      (step_of_remaining hf).trans (hostCycle_of_nil hh)
    exact (run_succ_of_next (M := core) hstep (n + 1)).trans (ih (s := s.withInFlight (some ⟨w, n⟩)) rfl hh)

/-- Settles O6: the run comes to the completion of the word, which ends BUSY and sets DONE. -/
theorem commandCompletesAfterItsLatency : Obligations.CommandCompletesAfterItsLatency := by
  intro n s w hf hh
  obtain ⟨t, ht⟩ := runWord_next w (s.latch w)
  obtain ⟨hdone, hidle, -⟩ := completion_of_runWord ht
  exact ⟨t, (run_of_quietHost hf hh).trans ht, ht, hidle, hdone⟩

end Sys2Proof.Machine
end

/-! ## Reset

SUPPORT. The two ways into the reset state (70_reset_and_hazards.md R330, R331), and what it shows to the host. -/

section
namespace Sys2Proof.Machine

/-- Settles O8: the empty memory is canonical, and the reset registers are cleared. -/
theorem resetMeetsInvariant : Obligations.ResetMeetsInvariant := reset_inv

/-! ### Into the reset state -/

theorem State.writeCtrl_of_srst (s : State) {v : Word} (hv : v.getLsbD 0 = true) : s.writeCtrl v = s.resetBlock :=
  if_pos hv

theorem hostCycle_of_hardReset {s : State} {rest : List HostOp} (h : s.host = .hardReset :: rest) :
    hostCycle s = .next { State.reset with host := rest, rdata := s.rdata, draws := s.draws } := by
  rw [hostCycle, h]
  rfl

/-- A completion leaves what a reset leaves: what the host last read and the count of free values (log 7). -/
theorem rdata_draws_of_runWord {w : Word} {s t : State} (h : runWord w s = .next t) :
    t.rdata = s.rdata ∧ t.draws = s.draws := by
  obtain ⟨i, -, hexec⟩ | ⟨-, rfl⟩ := runWord_outcome h
  · obtain ⟨-, -, -, -, -, -, hrdata, hdraws, -⟩ := commandsKeepOperandsAndConfiguration i s t hexec
    exact ⟨hrdata, hdraws⟩
  · exact ⟨rfl, rfl⟩

/-- The reset input comes in the host's turn, so it overrides a completion of the same cycle (log 21). -/
theorem step_of_hardReset {s : State} {rest : List HostOp} (h : s.host = .hardReset :: rest) :
    step s = .next { State.reset with host := rest, rdata := s.rdata, draws := s.draws } := by
  rcases hf : s.inFlight with _ | ⟨w, _ | left⟩
  · rw [step_of_idle hf, hostCycle_of_hardReset h]
  · have hn : s.statusWriteNow = none := by simp [State.statusWriteNow, h]
    obtain ⟨t, ht⟩ := runWord_next w s
    obtain ⟨hrdata, hdraws⟩ := rdata_draws_of_runWord ht
    rw [step_of_noStatusWrite hf hn, ht, andThen_next, hostCycle_of_hardReset ((host_of_runWord ht).trans h),
      hrdata, hdraws]
  · rw [step_of_remaining hf]
    exact hostCycle_of_hardReset h

/-- Settles O53: BUSY guards neither way into the reset state. -/
theorem softResetRestoresTheResetState : Obligations.SoftResetRestoresTheResetState := by
  refine ⟨fun s off v hoff hv => ?_, fun s rest => step_of_hardReset⟩
  exact (State.hostWrite_unguarded (target_ctrl hoff) v).trans (s.writeCtrl_of_srst hv)

/-! ### What the reset state shows -/

/-- The registers that reset to another value than 0 are ID, CORR_THRESH and the three of the BCH unit. -/
theorem readTarget_reset_controlTarget {o : Nat} (h : o ∉ [0x000, 0x044, 0x0C0, 0x0C4, 0x0C8]) :
    State.reset.readTarget (controlTarget o) = 0#32 := by
  unfold controlTarget
  split
  case h_1 | h_15 | h_33 | h_34 | h_35 => simp at h
  all_goals rfl

/-- A word of BM with no byte listed (log 5). -/
theorem bmWord_nil (w : Nat) : bmWord [] w = 0#32 := by
  simp only [bmWord, Memory.read]
  rfl

theorem readTarget_reset_target {off : BitVec 12} (h : off.toNat / 4 * 4 ∉ [0x000, 0x044, 0x0C0, 0x0C4, 0x0C8]) :
    State.reset.readTarget (target off) = 0#32 := by
  unfold target
  dsimp only
  split_ifs
  · exact readTarget_reset_controlTarget h
  · exact slot_replicate 64 _ 0#32
  · exact slot_replicate 64 _ 0#32
  · exact bmWord_nil _
  · exact congrArg VitEntry.toWord (slot_replicate 512 _ ⟨0#6, 0#4⟩)

/-- Settles O54: five offsets lead to the registers with a reset value of their own, the others read 0. -/
theorem resetReadsEveryOffset : Obligations.ResetReadsEveryOffset := by
  intro off
  have hread {o : Nat} (ho : off.toNat / 4 = o / 4) (hlt : o < 0x200) (haligned : o / 4 * 4 = o) :
      (State.reset.hostRead off).rdata = some (State.reset.readTarget (controlTarget o)) :=
    State.hostRead_of_idle rfl (target_of_lt (ho ▸ haligned) hlt)
  split_ifs with hid hthresh ht hlo hhi
  · exact hread hid (by decide) rfl
  · exact hread hthresh (by decide) rfl
  · exact hread ht (by decide) rfl
  · exact hread hlo (by decide) rfl
  · exact hread hhi (by decide) rfl
  · rw [State.hostRead_of_idle rfl rfl, readTarget_reset_target]
    simp only [List.mem_cons, List.not_mem_nil, or_false]
    omega

end Sys2Proof.Machine
end
